-- ==== Sys2Proof/Word.lean ====
section
/-! DEFINITION. The word types of the block: bytes, indices, operation words, response words (00_scope.md R5). -/

namespace Sys2Proof

/-- A byte of the block, `BYTEW` = 8 bits (00_scope.md R5). -/
abbrev Byte := BitVec 8

/-- An index into storage, and the width of `length` and `cursor`: `IDXW` = 8 bits, unsigned (R5, R6). -/
abbrev Idx := BitVec 8

/-- An operation word, `OPW` = 12 bits (R5, 30_encoding.md R50). -/
abbrev OpWord := BitVec 12

/-- A response word, `RSPW` = 10 bits (R5, 30_encoding.md R56). -/
abbrev RspWord := BitVec 10

end Sys2Proof
end

