-- ==== Sys2Proof/Config.lean ====
section
/-! DEFINITION. What is fixed for a machine (CAPACITY, the level run), the three ports, and the free value of the model. -/

namespace Sys2Proof

/-- The two levels a model may run (00_scope.md R8): `B` is the FixedBuffer alone on its test bench, `M` the whole
block. -/
inductive Level where
  | B
  | M
  deriving DecidableEq, Repr

/-- The three transaction-level ports (30_encoding.md R54). -/
inductive Port where
  /-- events, into the block -/
  | ev
  /-- buffer operations, into the FixedBuffer -/
  | buf
  /-- peripheral commands, out of the block -/
  | per
  deriving DecidableEq, Repr

/-- What no step changes. `capacity` is CAPACITY, the number of cells of storage, default 4 (R5, D2); eight bits hold
every legal value, 1 to 255. `level` is the level that is run (R8). Log entry 3. -/
structure Config where
  capacity : BitVec 8 := 4
  level    : Level := .M
  deriving DecidableEq, Repr

/-- The free value of the model: what the cell at an index held at reset, "any value at reset (a draw per cell, under
no law)" (93_implementation_defined.md U1). It has no body, so that no proof can know it. Log entry 2. -/
opaque Config.storageAtReset : Nat → Byte

/-- The identifier string `RXTXBUF-c<CAPACITY>` (00_scope.md R1, D2). -/
def Config.ident (c : Config) : String := "RXTXBUF-c" ++ toString c.capacity.toNat

end Sys2Proof
end

