-- ==== Sys2Proof/Syntax.lean ====
section
/-! DEFINITION. The twelve operations of the block, one constructor for each row of the opcode table. -/

namespace Sys2Proof

/-- The operations of 30_encoding.md R53, in the order of the table. -/
inductive Instr where
  /-- CLEAR: empty the buffer (R70). -/
  | clear
  /-- WRITE b: append one byte (R71). -/
  | write (b : Byte)
  /-- READ i: the byte at an index (R72). -/
  | read (i : Idx)
  /-- INIT: the foreground's initialization (R80). -/
  | init
  /-- RXC d: the receive-complete event with the byte received (R82). -/
  | rxc (d : Byte)
  /-- TXR: the transmit-ready event (R84). -/
  | txr
  /-- HWRD: take the received byte from the hardware (R90). -/
  | hwrd
  /-- HWWR b: hand one byte to the hardware (R91). -/
  | hwwr (b : Byte)
  /-- ENRX: enable the receive-complete interrupt (R92). -/
  | enrx
  /-- DISRX: disable the receive-complete interrupt (R93). -/
  | disrx
  /-- ENTX: enable the transmit-ready interrupt (R94). -/
  | entx
  /-- DISTX: disable the transmit-ready interrupt (R95). -/
  | distx
  deriving DecidableEq, Repr

end Sys2Proof
end

