-- ==== Sys2Proof/Decode.lean ====
section
/-! DEFINITION. The decoder, total on all 4096 words and rejecting by name (30_encoding.md R50 to R60), then the
encoder, the table's match and mask columns, and the formats and ports of the operations. -/

namespace Sys2Proof

/-- Why a word is reserved (30_encoding.md R57). -/
inductive Reserved where
  /-- (a) `op` is 0x3, 0x7, 0xE or 0xF. -/
  | opcode (op : BitVec 4)
  /-- (b) a format-Z opcode with a non-zero `arg`. -/
  | argument (op : BitVec 4) (arg : Byte)
  deriving DecidableEq, Repr

/-- What a word decodes to. -/
inductive Decoded where
  | instr (i : Instr)
  | reserved (why : Reserved)
  deriving DecidableEq, Repr

/-- `op = word[11:8]` (R50). -/
def opField (w : OpWord) : BitVec 4 := w.extractLsb' 8 4

/-- `arg = word[7:0]` (R50). -/
def argField (w : OpWord) : Byte := w.extractLsb' 0 8

/-- A format-Z operation: `arg` must be zero (R51, R52). -/
def formatZ (op : BitVec 4) (arg : Byte) (i : Instr) : Decoded :=
  if arg = 0 then .instr i else .reserved (.argument op arg)

/-- The decoding algorithm of R60, on the two fields. -/
def decodeFields (op : BitVec 4) (arg : Byte) : Decoded :=
  match op.toNat with
  | 0x0 => formatZ op arg .clear
  | 0x1 => .instr (.write arg)
  | 0x2 => .instr (.read arg)
  | 0x4 => formatZ op arg .init
  | 0x5 => .instr (.rxc arg)
  | 0x6 => formatZ op arg .txr
  | 0x8 => formatZ op arg .hwrd
  | 0x9 => .instr (.hwwr arg)
  | 0xA => formatZ op arg .enrx
  | 0xB => formatZ op arg .disrx
  | 0xC => formatZ op arg .entx
  | 0xD => formatZ op arg .distx
  | _ => .reserved (.opcode op)

/-- The decoder of R60. -/
def decode (w : OpWord) : Decoded := decodeFields (opField w) (argField w)

/-- The opcode number of an operation (R53). -/
def Instr.opcode : Instr → BitVec 4
  | .clear => 0x0
  | .write _ => 0x1
  | .read _ => 0x2
  | .init => 0x4
  | .rxc _ => 0x5
  | .txr => 0x6
  | .hwrd => 0x8
  | .hwwr _ => 0x9
  | .enrx => 0xA
  | .disrx => 0xB
  | .entx => 0xC
  | .distx => 0xD

/-- The `arg` field of an operation: its operand, or zero in format Z (R51). -/
def Instr.arg : Instr → Byte
  | .write b => b
  | .read i => i
  | .rxc d => d
  | .hwwr b => b
  | .clear => 0
  | .init => 0
  | .txr => 0
  | .hwrd => 0
  | .enrx => 0
  | .disrx => 0
  | .entx => 0
  | .distx => 0

/-- The encoder, the inverse of R60 on the twelve operations: `{op, arg}`. -/
def encode (i : Instr) : OpWord := i.opcode ++ i.arg

/-- The column `match` of the opcode map (R53). -/
def Instr.matchBits : Instr → OpWord
  | .clear => 0x000
  | .write _ => 0x100
  | .read _ => 0x200
  | .init => 0x400
  | .rxc _ => 0x500
  | .txr => 0x600
  | .hwrd => 0x800
  | .hwwr _ => 0x900
  | .enrx => 0xA00
  | .disrx => 0xB00
  | .entx => 0xC00
  | .distx => 0xD00

/-- The column `mask` of the opcode map (R53). -/
def Instr.mask : Instr → OpWord
  | .clear => 0xFFF
  | .write _ => 0xF00
  | .read _ => 0xF00
  | .init => 0xFFF
  | .rxc _ => 0xF00
  | .txr => 0xFFF
  | .hwrd => 0xFFF
  | .hwwr _ => 0xF00
  | .enrx => 0xFFF
  | .disrx => 0xFFF
  | .entx => 0xFFF
  | .distx => 0xFFF

/-- The column `port` of the opcode map: the one port that accepts the operation (R53, R54). -/
def Instr.port : Instr → Port
  | .clear => .buf
  | .write _ => .buf
  | .read _ => .buf
  | .init => .ev
  | .rxc _ => .ev
  | .txr => .ev
  | .hwrd => .per
  | .hwwr _ => .per
  | .enrx => .per
  | .disrx => .per
  | .entx => .per
  | .distx => .per

/-- The operation word held in the low `nbits` bits of `w`, or none where a bit above bit 11 is set: a word of the block
is 12 bits (R50). -/
def tableWord (nbits w : Nat) : Option OpWord :=
  if w % 2 ^ nbits < 4096 then some (BitVec.ofNat 12 (w % 2 ^ nbits)) else none

/-- The instruction the decoder reads from the table's word (bit 0 the least significant). -/
def decodeTableWord (nbits w : Nat) : Option Instr :=
  match tableWord nbits w with
  | none => none
  | some word =>
    match decode word with
    | .instr i => some i
    | .reserved _ => none

end Sys2Proof
end

