-- ==== Sys2Proof/Machine/State.lean ====
section
/-! DEFINITION. The state of the block as plain data (10_state.md), its reset value (R27), and the reasons a step can
stop. -/

namespace Sys2Proof.Machine

/-- The mode register, 0 = Receiving, 1 = Transmitting (10_state.md R14). -/
inductive Mode where
  | receiving
  | transmitting
  deriving DecidableEq, Repr

/-- The element of the trace `cmd_out`: a peripheral command (10_state.md R22). It is emitted as one operation word,
`Command.word` (30_encoding.md R50). -/
inductive Command where
  | hwrd
  | hwwr (b : Byte)
  | enrx
  | disrx
  | entx
  | distx
  deriving DecidableEq, Repr

/-- Who is running (10_state.md R23, 60_exceptions.md R109, R112). `idle` at every observable instant: the foreground is
in its idle loop. Log entry 5. -/
inductive Agent where
  /-- nobody: the foreground idles -/
  | idle
  /-- FG, while INIT runs -/
  | fg
  /-- RXH, handling the RXC event that carries `d`; `taken` says that HWRD has taken the byte -/
  | rxh (d : Byte) (taken : Bool)
  /-- TXH, handling a TXR event; `handed` says that HWWR has handed over a byte -/
  | txh (handed : Bool)
  deriving DecidableEq, Repr

/-- One word presented on one port (30_encoding.md R54). -/
structure Transaction where
  port : Port
  word : OpWord
  deriving DecidableEq, Repr

/-- Storage as a list of written cells, addresses strictly rising (`Memory.wf`). An address that is not listed holds no
written byte; what it reads as is `Ops.cell`. -/
abbrev Memory := List Host.Cell

/-- The state of the block (10_state.md section 1), and the model's own fields `cfg`, `agent`, `rsp`, `input`. -/
structure State where
  /-- CAPACITY and the level, which no step changes (R5, R8, R24; log entry 3) -/
  cfg     : Config
  /-- the written cells of the one memory (R19, R30) -/
  storage : Memory
  /-- count of valid entries (R11) -/
  length  : Idx
  /-- the source's drainCursor (R12) -/
  cursor  : Idx
  /-- the mode register (R14) -/
  mode    : Mode
  /-- receive-complete enable, true = 1 = enabled (R15) -/
  rxie    : Bool
  /-- transmit-ready enable, true = 1 = enabled (R15) -/
  txie    : Bool
  /-- the trace `cmd_out`, oldest first (R22) -/
  cmdOut  : List Command
  /-- the trace `tx_out`, oldest first (R22) -/
  txOut   : List Byte
  /-- the trace `drop_log`, oldest first (R22) -/
  dropLog : List Byte
  /-- who is running, and the event it handles (log entry 5) -/
  agent   : Agent
  /-- the response word of the latest operation, if it has one (30_encoding.md R56; log entry 6) -/
  rsp     : Option RspWord
  /-- the words presented next, in order (10_state.md R24; log entry 4) -/
  input   : List Transaction
  deriving DecidableEq, Repr

/-- The state after reset of a machine of configuration `c` whose cursor and storage hold what they are given: the spec
leaves those two unspecified (10_state.md R27, U1, U2). -/
def State.resetWith (c : Config) (cursor : Idx) (storage : Memory) : State :=
  { cfg := c, storage := storage, length := 0, cursor := cursor, mode := .receiving, rxie := false, txie := false,
    cmdOut := [], txOut := [], dropLog := [], agent := .idle, rsp := none, input := [] }

/-- The machine right after reset (10_state.md R27): the default CAPACITY 4, the whole block, no cell written. The cursor
0 is the model's (DESIGN CHOICE, log entry 1). -/
def State.reset : State := State.resetWith {} 0 []

/-- Why the machine stops. -/
inductive Fault where
  /-- MemRead or MemWrite of an index at or above CAPACITY, which does not exist (00_scope.md R6, 20_memory.md R33).
  Raised by READ, and by TXR through it, only where `length` exceeds CAPACITY, which no run reaches. Safe. -/
  | outsideStorage (index : Nat)
  deriving DecidableEq, Repr

/-- Why an input has no step (30_encoding.md R58). Every one is the spec's own verdict "refused" and safe. -/
inductive Refusal where
  /-- Raised by no arm: every instruction has its meaning. Safe. -/
  | notModelled (mnemonic : String)
  /-- The step: CAPACITY is not 1 to 255 (D24). Safe. -/
  | illegalCapacity
  /-- The step: a reserved word (R57, D9). Safe. -/
  | reservedWord (word : OpWord) (why : Reserved)
  /-- The step: a word on a port that does not accept it (R54, D9). Safe. -/
  | wrongPort (port : Port) (word : OpWord)
  /-- The step: a word on a port that nobody may drive now: BUF or PER at level M while no handler runs, EV or PER at
  level B (R8, R54, U5, D22). Safe. -/
  | portClosed (port : Port) (word : OpWord)
  /-- INIT, RXC, TXR: an event while a handler runs; handlers do not nest (60_exceptions.md R107, R110). Safe. -/
  | handlerRunning
  /-- INIT: a second initialization (41_state_machine.md R80, D12). Safe. -/
  | alreadyInitialized
  /-- RXC: not delivered, `rxie` is 0 (R81, U3, D10). Safe. -/
  | receiveNotEnabled
  /-- TXR: not delivered, `txie` is 0 (R81, U3, D10). Safe. -/
  | transmitNotEnabled
  /-- HWRD: not the one call of a receive handler (42_peripheral_primitives.md R90, U4). Safe. -/
  | noReceivedByte
  /-- HWWR: not the one call of a transmit handler (R91, U4). Safe. -/
  | noTransmitReady
  deriving DecidableEq, Repr

/-- The outcome of an operation that yields an `α`. -/
abbrev Res (α : Type) := Host.Outcome α Fault Refusal

end Sys2Proof.Machine
end

