-- ==== Sys2Proof/Machine/Flags.lean ====
section
/-! DEFINITION. The condition codes of the block: the Status a buffer operation returns, the two comparisons that decide
it, and the response word that carries it (10_state.md R18, 30_encoding.md R55, R56). Nothing is latched. -/

namespace Sys2Proof.Machine

/-- The status of a buffer operation (30_encoding.md R55); the code 0b11 has no constructor (U7). -/
inductive Status where
  | success
  | bufferFull
  | outOfRange
  deriving DecidableEq, Repr

/-- The two-bit code of a status (R55). -/
def Status.code : Status → BitVec 2
  | .success => 0b00
  | .bufferFull => 0b01
  | .outOfRange => 0b10

/-- The response word `(status[1:0], data[7:0])` (R56). -/
def response (st : Status) (data : Byte) : RspWord := st.code ++ data

/-- The status of a WRITE: `length < CAPACITY`, unsigned (40_fixedbuffer.md R71, R75). -/
def writeStatus (s : State) : Status := if s.length < s.cfg.capacity then .success else .bufferFull

/-- The status of a READ: `i < length`, unsigned (40_fixedbuffer.md R72, R75). -/
def readStatus (i : Idx) (s : State) : Status := if i < s.length then .success else .outOfRange

end Sys2Proof.Machine
end

