-- ==== Sys2Proof/Machine/Operands.lean ====
section
/-! DEFINITION. The operand forms: the three formats of an operation word (30_encoding.md R51, R52). -/

namespace Sys2Proof.Machine

/-- The three formats (30_encoding.md R51). -/
inductive Format where
  /-- no operand, `arg` must be zero -/
  | Z
  /-- `arg` is one byte of data -/
  | D
  /-- `arg` is an unsigned index -/
  | X
  deriving DecidableEq, Repr

/-- The format of an operation (R51, R53). -/
def formatOf : Instr → Format
  | .clear => .Z
  | .write _ => .D
  | .read _ => .X
  | .init => .Z
  | .rxc _ => .D
  | .txr => .Z
  | .hwrd => .Z
  | .hwwr _ => .D
  | .enrx => .Z
  | .disrx => .Z
  | .entx => .Z
  | .distx => .Z

/-- The address an index stands for: an unsigned integer 0 to 255, neither scaled nor extended (R52, 20_memory.md R30).
The operand of format X, `length` and `cursor` all address storage this way. -/
def address (i : Idx) : Nat := i.toNat

end Sys2Proof.Machine
end

