-- ==== Sys2Proof/Machine/Ops.lean ====
section
/-! DEFINITION. The named operations every meaning is built from: writes of one field, storage, the FixedBuffer's three
operations (40_fixedbuffer.md), the six peripheral commands as `emit` performs them (42_peripheral_primitives.md), handler
entry and return (60_exceptions.md R109, R110), and the two mode transitions (41_state_machine.md R83, R86). -/

namespace Sys2Proof.Machine

/-! Sequencing: the next operation sees what the one before left (20_memory.md R38). -/

/-- `o`, then `f` on what it gives; a fault or a refusal ends the sequence. -/
def andThen {α β : Type} (o : Res α) (f : α → Res β) : Res β :=
  match o with
  | .next a => f a
  | .fault r => .fault r
  | .refused r => .refused r

/-! One write of one field each. -/

/-- `storage <- m` -/
def State.setStorage (m : Memory) (s : State) : State := { s with storage := m }
/-- `length <- n` -/
def State.setLength (n : Idx) (s : State) : State := { s with length := n }
/-- `cursor <- n` -/
def State.setCursor (n : Idx) (s : State) : State := { s with cursor := n }
/-- `mode <- m` -/
def State.setMode (m : Mode) (s : State) : State := { s with mode := m }
/-- `rxie <- b` -/
def State.setRxie (b : Bool) (s : State) : State := { s with rxie := b }
/-- `txie <- b` -/
def State.setTxie (b : Bool) (s : State) : State := { s with txie := b }
/-- `cmd_out <- cmd_out ++ [c]` (10_state.md R22) -/
def State.emit (c : Command) (s : State) : State := { s with cmdOut := s.cmdOut ++ [c] }
/-- `tx_out <- tx_out ++ [b]` (R22) -/
def State.logTx (b : Byte) (s : State) : State := { s with txOut := s.txOut ++ [b] }
/-- `drop_log` gains `b` (R22) -/
def State.logDrop (b : Byte) (s : State) : State := { s with dropLog := s.dropLog ++ [b] }
/-- `a` runs from here on -/
def State.setAgent (a : Agent) (s : State) : State := { s with agent := a }
/-- the response of the operation is `r` (30_encoding.md R56) -/
def State.respond (r : Option RspWord) (s : State) : State := { s with rsp := r }
/-- the words still to be presented are `l` -/
def State.setInput (l : List Transaction) (s : State) : State := { s with input := l }

/-! Storage (20_memory.md R30 to R34). -/

/-- The canonical form of storage: addresses strictly rising. -/
abbrev Memory.wf (m : Memory) : Prop := m.Pairwise fun a b => a.1 < b.1

/-- The byte last written at an address, none where none was written. This is what an unlisted address reads as. -/
def Memory.find : Memory → Nat → Option Byte
  | [], _ => none
  | c :: m, a => if c.1 = a then some c.2 else Memory.find m a

/-- The memory with `b` written at address `a`, in canonical form. -/
def Memory.store : Memory → Nat → Byte → Memory
  | [], a, b => [(a, b)]
  | c :: m, a, b =>
    if a < c.1 then (a, b) :: c :: m
    else if a = c.1 then (a, b) :: m
    else c :: Memory.store m a b

/-- What the cell at an index holds: the byte last written there, else what it held at reset, a free value
(10_state.md R20, U1; log entry 2). -/
def Ops.cell (s : State) (a : Nat) : Byte := (s.storage.find a).getD (Config.storageAtReset a)

/-- The addresses that exist: 0 to CAPACITY - 1 (R30). -/
abbrev Ops.exists (a : Nat) (s : State) : Prop := a < s.cfg.capacity.toNat

/-- `MemRead(a, 1)` (00_scope.md R6): defined only for `a < CAPACITY`. -/
def Ops.memRead (a : Nat) (s : State) : Res Byte :=
  if Ops.exists a s then .next (Ops.cell s a) else .fault (.outsideStorage a)

/-- `MemWrite(a, 1, b)` (00_scope.md R6): defined only for `a < CAPACITY`. -/
def Ops.memWrite (a : Nat) (b : Byte) (s : State) : Res State :=
  if Ops.exists a s then .next (s.setStorage (s.storage.store a b)) else .fault (.outsideStorage a)

/-! The FixedBuffer. Each operation yields its status and what it returns; the response word is the caller's. -/

/-- `BUF.CLEAR()` (40_fixedbuffer.md R70): `length <- 0`; no cell is written. -/
def Ops.bufClear (s : State) : State := s.setLength 0

/-- `BUF.WRITE(b)` (R71): on Success the byte is stored at the old `length`, which then rises by one; on BufferFull
nothing changes. -/
def Ops.bufWrite (b : Byte) (s : State) : Res (Status × State) :=
  match writeStatus s with
  | .success =>
    andThen (Ops.memWrite (address s.length) b s) fun t => .next (.success, t.setLength (s.length + 1))
  | .bufferFull => .next (.bufferFull, s)
  | .outOfRange => .next (.outOfRange, s)

/-- `BUF.READ(i)` (R72): the byte at `i`, or OutOfRange with no byte (encoded as zero, 00_scope.md R6). No state
changes. -/
def Ops.bufRead (i : Idx) (s : State) : Res (Status × Byte) :=
  match readStatus i s with
  | .success => andThen (Ops.memRead (address i) s) fun b => .next (.success, b)
  | .bufferFull => .next (.bufferFull, 0)
  | .outOfRange => .next (.outOfRange, 0)

/-! What leaves on PER: every command is emitted as one operation word (30_encoding.md R50, R54). -/

/-- The operation a command is (R53). -/
def Command.instr : Command → Instr
  | .hwrd => .hwrd
  | .hwwr b => .hwwr b
  | .enrx => .enrx
  | .disrx => .disrx
  | .entx => .entx
  | .distx => .distx

/-- The operation word a command is emitted as: `op` in bits 11 to 8, `arg` in bits 7 to 0 (R50, R53). -/
def Command.word (c : Command) : OpWord := encode c.instr

/-- The transaction a command is: its one word, passed on PER (R54). -/
def Command.onPer (c : Command) : Transaction := { port := .per, word := c.word }

/-- What the block has passed on PER since reset, one word for each emitted command, oldest first: `cmd_out` as words
(R50, R54, 10_state.md R22). -/
def State.perOut (s : State) : List Transaction := s.cmdOut.map Command.onPer

/-! The peripheral commands: append to `cmd_out`, which passes the word on PER, then the command's own effect. -/

/-- HWRD (42_peripheral_primitives.md R90): inside a receive handler, once, it yields the byte of the RXC event being
handled. -/
def Ops.hwrd (s : State) : Res (Byte × State) :=
  match s.agent with
  | .rxh d false => .next (d, (s.emit .hwrd).setAgent (.rxh d true))
  | .rxh _ true => .refused .noReceivedByte
  | .txh _ => .refused .noReceivedByte
  | .fg => .refused .noReceivedByte
  | .idle => .refused .noReceivedByte

/-- HWWR (R91): inside a transmit handler, once, it hands over `b`. -/
def Ops.hwwr (b : Byte) (s : State) : Res State :=
  match s.agent with
  | .txh false => .next (((s.emit (.hwwr b)).logTx b).setAgent (.txh true))
  | .txh true => .refused .noTransmitReady
  | .rxh _ _ => .refused .noTransmitReady
  | .fg => .refused .noTransmitReady
  | .idle => .refused .noTransmitReady

/-- ENRX (R92). -/
def Ops.enrx (s : State) : State := (s.emit .enrx).setRxie true
/-- DISRX (R93). -/
def Ops.disrx (s : State) : State := (s.emit .disrx).setRxie false
/-- ENTX (R94). -/
def Ops.entx (s : State) : State := (s.emit .entx).setTxie true
/-- DISTX (R95). -/
def Ops.distx (s : State) : State := (s.emit .distx).setTxie false

/-! Handlers. The block has no trap; a delivered event is its only control transfer from outside. -/

/-- Entry of a handler (60_exceptions.md R109): control goes to `a`; nothing is saved, no mode and no mask changes. -/
def Ops.enterHandler (a : Agent) (s : State) : State := s.setAgent a

/-- Return of a handler (R110): nothing is restored; the foreground idles again; an event has no response (R56). -/
def Ops.leaveHandler (s : State) : State := (s.setAgent .idle).respond none

/-- The overflow transition 4a to 4d (41_state_machine.md R83); `b` is discarded. -/
def Ops.overflow (b : Byte) (s : State) : State :=
  (((Ops.entx (Ops.disrx s)).setCursor 0).setMode .transmitting).logDrop b

/-- The drain-complete transition 3a to 3d (R86); `cursor` is not written. -/
def Ops.drainComplete (s : State) : State :=
  (Ops.enrx (Ops.distx (Ops.bufClear s))).setMode .receiving

end Sys2Proof.Machine
end

