-- ==== Sys2Proof/Machine/Buffer.lean ====
section
/-! DEFINITION. The meanings of CLEAR, WRITE and READ (40_fixedbuffer.md R70 to R72), each with its response word
(30_encoding.md R56). -/

namespace Sys2Proof.Machine

/-- CLEAR (R70): the buffer is emptied; the response is always Success. -/
def execClear (s : State) : Res State :=
  .next ((Ops.bufClear s).respond (some (response .success 0)))

/-- WRITE b (R71): the response is Success or BufferFull, with no byte. -/
def execWrite (b : Byte) (s : State) : Res State :=
  andThen (Ops.bufWrite b s) fun r => .next (r.2.respond (some (response r.1 0)))

/-- READ i (R72): the response is Success with the byte, or OutOfRange. -/
def execRead (i : Idx) (s : State) : Res State :=
  andThen (Ops.bufRead i s) fun r => .next (s.respond (some (response r.1 r.2)))

end Sys2Proof.Machine
end

