-- ==== Sys2Proof/Machine/Events.lean ====
section
/-! DEFINITION. The meanings of INIT, RXC and TXR (41_state_machine.md R80 to R86). One event is one step: the whole
handler (60_exceptions.md R108). -/

namespace Sys2Proof.Machine

/-- INIT (R80): refused once either interrupt is enabled; else CLEAR, `mode <- Receiving`, ENRX. -/
def execInit (s : State) : Res State :=
  if s.agent ≠ .idle then .refused .handlerRunning
  else if s.rxie || s.txie then .refused .alreadyInitialized
  else .next (Ops.leaveHandler (Ops.enrx ((Ops.bufClear (Ops.enterHandler .fg s)).setMode .receiving)))

/-- The body of the receive handler (R82 steps 1 to 4): HWRD, WRITE, and the overflow transition where the buffer was
full. -/
def receiveHandler (s : State) : Res State :=
  andThen (Ops.hwrd s) fun h =>
    andThen (Ops.bufWrite h.1 h.2) fun w =>
      if w.1 = .success then .next (Ops.leaveHandler w.2)
      else .next (Ops.leaveHandler (Ops.overflow h.1 w.2))

/-- RXC d (R81, R82, R83): not delivered while `rxie` is 0. -/
def execRxc (d : Byte) (s : State) : Res State :=
  if s.agent ≠ .idle then .refused .handlerRunning
  else if s.rxie then receiveHandler (Ops.enterHandler (.rxh d false) s)
  else .refused .receiveNotEnabled

/-- The body of the transmit handler (R84 steps 1 to 3): READ at `cursor`; HWWR and `cursor + 1` (R85), or the
drain-complete transition (R86). -/
def transmitHandler (s : State) : Res State :=
  andThen (Ops.bufRead s.cursor s) fun r =>
    if r.1 = .success then
      andThen (Ops.hwwr r.2 s) fun t => .next (Ops.leaveHandler (t.setCursor (t.cursor + 1)))
    else .next (Ops.leaveHandler (Ops.drainComplete s))

/-- TXR (R81, R84, R85, R86): not delivered while `txie` is 0. -/
def execTxr (s : State) : Res State :=
  if s.agent ≠ .idle then .refused .handlerRunning
  else if s.txie then transmitHandler (Ops.enterHandler (.txh false) s)
  else .refused .transmitNotEnabled

end Sys2Proof.Machine
end

