-- ==== Sys2Proof/Machine/Peripheral.lean ====
section
/-! DEFINITION. The meanings of the six peripheral commands as operations of their own on the PER port
(42_peripheral_primitives.md R90 to R95). HWRD alone has a response (30_encoding.md R56). -/

namespace Sys2Proof.Machine

/-- HWRD (R90): the response carries the byte of the event being handled. -/
def execHwrd (s : State) : Res State :=
  andThen (Ops.hwrd s) fun h => .next (h.2.respond (some (response .success h.1)))

/-- HWWR b (R91). -/
def execHwwr (b : Byte) (s : State) : Res State :=
  andThen (Ops.hwwr b s) fun t => .next (t.respond none)

/-- ENRX (R92). -/
def execEnrx (s : State) : Res State := .next ((Ops.enrx s).respond none)

/-- DISRX (R93). -/
def execDisrx (s : State) : Res State := .next ((Ops.disrx s).respond none)

/-- ENTX (R94). -/
def execEntx (s : State) : Res State := .next ((Ops.entx s).respond none)

/-- DISTX (R95). -/
def execDistx (s : State) : Res State := .next ((Ops.distx s).respond none)

end Sys2Proof.Machine
end

