-- ==== Sys2Proof/Machine/Dispatch.lean ====
section
/-! DEFINITION. The meaning of every operation, one arm for each. -/

namespace Sys2Proof.Machine

def exec (i : Instr) (s : State) : Host.Outcome State Fault Refusal :=
  match i with
  | .clear => Sys2Proof.Machine.execClear s
  | .write b => Sys2Proof.Machine.execWrite b s
  | .read k => Sys2Proof.Machine.execRead k s
  | .init => Sys2Proof.Machine.execInit s
  | .rxc d => Sys2Proof.Machine.execRxc d s
  | .txr => Sys2Proof.Machine.execTxr s
  | .hwrd => Sys2Proof.Machine.execHwrd s
  | .hwwr b => Sys2Proof.Machine.execHwwr b s
  | .enrx => Sys2Proof.Machine.execEnrx s
  | .disrx => Sys2Proof.Machine.execDisrx s
  | .entx => Sys2Proof.Machine.execEntx s
  | .distx => Sys2Proof.Machine.execDistx s

end Sys2Proof.Machine
end

