-- ==== Sys2Proof/Machine/Fetch.lean ====
section
/-! DEFINITION. How a word comes to be run: the words presented, the ports that accept them (30_encoding.md R54, R58,
00_scope.md R8), the pseudo-instructions (R62), and what a word needs to be run at once. -/

namespace Sys2Proof.Machine

/-- The next word presented and the state with it gone from the input; none while nothing is presented. -/
def takeTransaction (s : State) : Option (Transaction × State) :=
  match s.input with
  | [] => none
  | t :: rest => some (t, s.setInput rest)

/-- The foreground's idle loop (60_exceptions.md R117, 70_reset_and_hazards.md R122 step 4): nothing is presented and
nothing changes. -/
def idleLoop (s : State) : State := s

/-- Whether the one who drives a port may present a word on it now (R54). At level B only BUF is open, to the test
bench; at level M the outside drives EV, and BUF and PER carry words only while a handler (or INIT) runs. Log entry 5. -/
def portOpen (p : Port) (s : State) : Bool :=
  match p, s.cfg.level with
  | .ev, .M => true
  | .ev, .B => false
  | .buf, .M => decide (s.agent ≠ .idle)
  | .buf, .B => true
  | .per, .M => decide (s.agent ≠ .idle)
  | .per, .B => false

/-- What becomes of a word presented on a port, before it runs: the operation, or a refusal (R57, R58, D24). -/
def accept (t : Transaction) (s : State) : Except Refusal Instr :=
  if s.cfg.capacity = 0 then .error .illegalCapacity
  else
    match decode t.word with
    | .reserved why => .error (.reservedWord t.word why)
    | .instr i =>
      if i.port = t.port then
        if portOpen t.port s then .ok i else .error (.portClosed t.port t.word)
      else .error (.wrongPort t.port t.word)

/-- An operation presented on its own port. -/
def present (i : Instr) : Transaction := { port := i.port, word := encode i }

/-- `RXS b1, ..., bn` (R62). -/
def rxs (bs : List Byte) : List Transaction := bs.map fun b => present (.rxc b)

/-- `DRAIN n` (R62). -/
def drain (n : Nat) : List Transaction := List.replicate n (present .txr)

/-- The state in which an operation presented next is accepted by its port and, for an event, delivered (R54, R80, R81,
R90, R91): the level, who runs, and for an event the mode and the two enable bits. It stands for what comes before that
operation in a run. Log entry 4. -/
def readyFor (i : Instr) (s : State) : State :=
  let atM (a : Agent) : State := { s with cfg := { s.cfg with level := .M }, agent := a }
  let delivering (m : Mode) (rx tx : Bool) : State := (((atM .idle).setMode m).setRxie rx).setTxie tx
  match i with
  | .clear => { s with cfg := { s.cfg with level := .B }, agent := .idle }
  | .write _ => { s with cfg := { s.cfg with level := .B }, agent := .idle }
  | .read _ => { s with cfg := { s.cfg with level := .B }, agent := .idle }
  | .init => delivering .receiving false false
  | .rxc _ => delivering .receiving true false
  | .txr => delivering .transmitting false true
  | .hwrd => atM (.rxh 0 false)
  | .hwwr _ => atM (.txh false)
  | .enrx => atM .fg
  | .disrx => atM (.rxh 0 true)
  | .entx => atM (.rxh 0 true)
  | .distx => atM (.txh false)

/-- `s` with the word presented next, on the port of its operation (a reserved word on EV), ready to be run. -/
def presentNext (w : OpWord) (s : State) : State :=
  match decode w with
  | .instr i => (readyFor i s).setInput ({ port := i.port, word := w } :: s.input)
  | .reserved _ => s.setInput ({ port := .ev, word := w } :: s.input)

end Sys2Proof.Machine
end

