-- ==== Sys2Proof/Machine/Step.lean ====
section
/-! DEFINITION. One step: the next word presented is decoded, accepted and run; with nothing presented the foreground
idles (10_state.md R23, R24, 20_memory.md R38). -/

namespace Sys2Proof.Machine

/-- One step. -/
def step (s : State) : Host.Outcome State Fault Refusal :=
  match takeTransaction s with
  | none => .next (idleLoop s)
  | some (t, s') =>
    match accept t s' with
    | .error r => .refused r
    | .ok i => exec i s'

/-- `s` with the table's word presented where the next step takes it. -/
def State.withFetchWord (s : State) (nbits w : Nat) : State :=
  match tableWord nbits w with
  | none => s
  | some word => presentNext word s

end Sys2Proof.Machine
end

