-- ==== Sys2Proof/WellFormed.lean ====
section
/-! DEFINITION. The well-formedness checks: the configuration's. An instruction has none, since every value of every
operand is legal (30_encoding.md R51, R52; 40_fixedbuffer.md R71 (e), R72 (d); 42_peripheral_primitives.md R91) and the
types of `Instr` hold exactly those values. -/

namespace Sys2Proof

/-- CAPACITY is legal: 1 to 255 (00_scope.md R5; 0 is excluded by D24, more than 255 does not fit the field). -/
def Config.wellFormed (c : Config) : Bool := c.capacity != 0

end Sys2Proof
end

