-- ==== Sys2Proof/Safety.lean ====
section
/-! DEFINITION. What claims are stated in: the reset states, the lockstep, the invariant of reachable states, which part
of the state is stale, the transition table, sequences of operations, and runs that keep the mark of a refusal. -/

namespace Sys2Proof.Machine

/-- A state right after reset, with whatever cursor and storage: the spec gives those two no value (10_state.md R27, U1,
U2). The words to be presented are free. -/
structure State.IsReset (s : State) : Prop where
  length  : s.length = 0
  mode    : s.mode = .receiving
  rxie    : s.rxie = false
  txie    : s.txie = false
  cmdOut  : s.cmdOut = []
  txOut   : s.txOut = []
  dropLog : s.dropLog = []
  agent   : s.agent = .idle
  rsp     : s.rsp = none

/-- The first line of 10_state.md R16. -/
abbrev State.ReceivingLine (s : State) : Prop := s.mode = .receiving ∧ s.rxie = true ∧ s.txie = false

/-- The second line of R16. -/
abbrev State.TransmittingLine (s : State) : Prop := s.mode = .transmitting ∧ s.rxie = false ∧ s.txie = true

/-- One of the two lines of R16 holds (they exclude each other). -/
abbrev State.Lockstep (s : State) : Prop := s.ReceivingLine ∨ s.TransmittingLine

/-- INIT has not run: Receiving with both interrupts disabled (R16, R27). -/
abbrev State.Uninitialized (s : State) : Prop := s.mode = .receiving ∧ s.rxie = false ∧ s.txie = false

/-- Storage is in canonical form and lists only cells that exist (20_memory.md R30). -/
abbrev State.StorageFits (s : State) : Prop := s.storage.wf ∧ ∀ c ∈ s.storage, c.1 < s.cfg.capacity.toNat

/-- The response word standing in `rsp`, if any, has no reserved status code (30_encoding.md R55). -/
def State.rspLegal (s : State) : Bool :=
  match s.rsp with
  | none => true
  | some r => r.extractLsb' 8 2 != 0b11

/-- The invariant of every observable state of a run (10_state.md R16, R20, R26). -/
structure State.Inv (s : State) : Prop where
  /-- CAPACITY is legal (R5) -/
  capacity : s.cfg.wellFormed = true
  /-- storage is canonical and lists only cells that exist (R30) -/
  storage  : s.StorageFits
  /-- I-a -/
  length   : s.length ≤ s.cfg.capacity
  /-- the cells below `length` have been written (R20) -/
  written  : ∀ a < s.length.toNat, (s.storage.find a).isSome = true
  /-- between steps nobody runs (R108) -/
  idle     : s.agent = .idle
  /-- before INIT both interrupts are disabled; after it, I-b -/
  lockstep : s.Uninitialized ∨ s.Lockstep
  /-- I-c -/
  draining : s.mode = .transmitting → s.length = s.cfg.capacity ∧ s.cursor ≤ s.length
  /-- at level B there is no state machine to initialize (00_scope.md R8) -/
  levelB   : s.cfg.level = .B → s.Uninitialized
  /-- R55 -/
  rsp      : s.rspLegal = true

/-- `s` and `t` differ at most in what no rule can see: stale cells of storage, and the cursor while not Transmitting
(R12, R20, R21, D14, D23). -/
structure State.SameVisible (s t : State) : Prop where
  rest   : t = { s with storage := t.storage, cursor := t.cursor }
  cells  : ∀ a < s.length.toNat, Ops.cell t a = Ops.cell s a
  cursor : s.mode = .transmitting → t.cursor = s.cursor

/-- The receive enable after a command (42_peripheral_primitives.md R92, R93). -/
def Command.rxieAfter (b : Bool) : Command → Bool
  | .enrx => true
  | .disrx => false
  | .hwrd => b
  | .hwwr _ => b
  | .entx => b
  | .distx => b

/-- The transmit enable after a command (R94, R95). -/
def Command.txieAfter (b : Bool) : Command → Bool
  | .entx => true
  | .distx => false
  | .hwrd => b
  | .hwwr _ => b
  | .enrx => b
  | .disrx => b

/-- The byte a command hands to the hardware, if it does (R91). -/
def Command.sent : Command → Option Byte
  | .hwwr b => some b
  | .hwrd => none
  | .enrx => none
  | .disrx => none
  | .entx => none
  | .distx => none

/-- The bytes this drain has sent, in order: storage[0], ..., storage[cursor - 1] (10_state.md R26 I-e). -/
def State.drained (s : State) : List Byte := (List.range s.cursor.toNat).map (Ops.cell s)

/-- I-e: while Transmitting, `cmd_out` ends with the ENTX that began this drain and the HWWRs of storage[0], ...,
storage[cursor - 1], no more and no fewer; and `tx_out` is what was sent before that ENTX, then those bytes. -/
abbrev State.DrainOrdered (s : State) : Prop :=
  s.mode = .transmitting → ∃ earlier,
    s.cmdOut = earlier ++ [.entx] ++ s.drained.map .hwwr ∧
    s.txOut = earlier.filterMap Command.sent ++ s.drained

/-- INIT has run exactly if a command has been emitted (it is the first step of a run and emits ENRX, 41_state_machine.md
R80): before, both interrupts are disabled; from then on the lockstep holds (10_state.md R16, R26 I-b). -/
abbrev State.LockstepOnceStarted (s : State) : Prop :=
  (s.cmdOut = [] → s.Uninitialized) ∧ (s.cmdOut ≠ [] → s.Lockstep)

/-- The operation presented next, if a word is presented and it is not reserved. -/
def State.presented (s : State) : Option Instr :=
  match s.input with
  | [] => none
  | t :: _ =>
    match decode t.word with
    | .instr i => some i
    | .reserved _ => none

/-- The traces explain the outputs: the enable bits are what the commands emitted since reset leave, and the bytes sent
are those of its HWWR commands (R15, R22, R91 to R95). -/
abbrev State.Explained (s : State) : Prop :=
  s.rxie = s.cmdOut.foldl Command.rxieAfter false ∧
  s.txie = s.cmdOut.foldl Command.txieAfter false ∧
  s.txOut = s.cmdOut.filterMap Command.sent

/-- The rows T0 to T4 of the transition table 41_state_machine.md R87, none for its refused rows (and for what is no
event). The cell written by T1 is given by `Memory.store`. -/
def tableStep (i : Instr) (s : State) : Option State :=
  match i with
  | .init =>
    if s.rxie = false ∧ s.txie = false then
      some { s with length := 0, mode := .receiving, rxie := true, cmdOut := s.cmdOut ++ [.enrx], rsp := none }
    else none
  | .rxc d =>
    if s.rxie = true ∧ s.length < s.cfg.capacity then
      some { s with storage := s.storage.store s.length.toNat d, length := s.length + 1,
                    cmdOut := s.cmdOut ++ [.hwrd], rsp := none }
    else if s.rxie = true ∧ s.length = s.cfg.capacity then
      some { s with rxie := false, txie := true, cursor := 0, mode := .transmitting,
                    cmdOut := s.cmdOut ++ [.hwrd, .disrx, .entx], dropLog := s.dropLog ++ [d], rsp := none }
    else none
  | .txr =>
    if s.txie = true ∧ s.cursor < s.length then
      some { s with cursor := s.cursor + 1, txOut := s.txOut ++ [Ops.cell s s.cursor.toNat],
                    cmdOut := s.cmdOut ++ [.hwwr (Ops.cell s s.cursor.toNat)], rsp := none }
    else if s.txie = true then
      some { s with length := 0, txie := false, rxie := true, mode := .receiving,
                    cmdOut := s.cmdOut ++ [.distx, .enrx], rsp := none }
    else none
  | .clear => none
  | .write _ => none
  | .read _ => none
  | .hwrd => none
  | .hwwr _ => none
  | .enrx => none
  | .disrx => none
  | .entx => none
  | .distx => none

/-- Operations one after the other, with the response of each; none where one of them stops. -/
def execAll : List Instr → State → Option (State × List (Option RspWord))
  | [], s => some (s, [])
  | i :: is, s =>
    match exec i s with
    | .next t =>
      match execAll is t with
      | some (u, rs) => some (u, t.rsp :: rs)
      | none => none
    | .fault _ => none
    | .refused _ => none

/-- The valid entries after one operation, at CAPACITY `c` (10_state.md R20): CLEAR discards them, a WRITE that succeeds
appends its byte. -/
def entriesStep (c : Nat) (es : List Byte) : Instr → List Byte
  | .clear => []
  | .write b => if es.length < c then es ++ [b] else es
  | .read _ => es
  | .init => es
  | .rxc _ => es
  | .txr => es
  | .hwrd => es
  | .hwwr _ => es
  | .enrx => es
  | .disrx => es
  | .entx => es
  | .distx => es

/-- The bytes of the successful WRITEs since the last CLEAR of a sequence of buffer operations that begins on an empty
buffer, in insertion order. -/
def entriesAfter (c : Nat) (is : List Instr) : List Byte := is.foldl (entriesStep c) []

/-- A run that goes on past a refused word and keeps the mark of it (30_encoding.md R58). -/
structure Run where
  state   : State
  /-- the refused words, in order: the mark kept for the whole run -/
  refused : List Transaction
  /-- the steps taken -/
  steps   : Nat
  /-- the fault the machine has stopped with, if it has -/
  fault   : Option Fault
  deriving DecidableEq, Repr

/-- One word presented to a run: a step, or a mark and nothing else. -/
def Run.present (r : Run) (t : Transaction) : Run :=
  match r.fault with
  | some _ => r
  | none =>
    match step (r.state.setInput [t]) with
    | .next s => { r with state := s, steps := r.steps + 1 }
    | .refused _ => { r with refused := r.refused ++ [t] }
    | .fault f => { r with fault := some f }

/-- Words presented one after the other. -/
def Run.presentAll (r : Run) (ts : List Transaction) : Run := ts.foldl Run.present r

/-- A good run: no refusal is recorded (92_eei_decisions.md, premise 4) and nothing faulted. -/
def Run.good (r : Run) : Bool := r.refused.isEmpty && r.fault.isNone

end Sys2Proof.Machine
end

