-- ==== Sys2Proof/Certificates/Slice0/Obligations.lean ====
section
/-! DEFINITION. The statements for the provers, each from rules of spec/. -/

open Sys2Proof Sys2Proof.Machine

/-! Encoding (30_encoding.md). -/

/-- Decoding the encoding of any operation gives it back, for every value of its operand (section 8). -/
def Obligations.DecodeEncodeAllOperations : Prop :=
  ∀ i : Instr, decode (encode i) = .instr i

/-- Encoding what any word decodes to gives the word back (section 8). -/
def Obligations.EncodeDecodeEveryWord : Prop :=
  ∀ (w : OpWord) (i : Instr), decode w = .instr i → encode i = w

/-- A word is the operation of a row of the opcode map exactly when `(w & mask) == match` (section 3), and its operand
is its `arg` field. -/
def Obligations.WordMatchesItsRowOnly : Prop :=
  ∀ (w : OpWord) (i : Instr),
    (w &&& i.mask = i.matchBits ↔ ∃ j, decode w = .instr j ∧ j.opcode = i.opcode ∧ j.arg = argField w)

/-- The reserved words: op 3, 7, E, F, or a format-Z opcode with a non-zero arg; they are 3064 of the 4096; and no status
has the reserved code (section 6). -/
def Obligations.ReservedWordsAreThose : Prop :=
  (∀ w : OpWord, (∃ why, decode w = .reserved why) ↔
    (opField w = 0x3 ∨ opField w = 0x7 ∨ opField w = 0xE ∨ opField w = 0xF) ∨
    ((opField w = 0x0 ∨ opField w = 0x4 ∨ opField w = 0x6 ∨ opField w = 0x8 ∨ opField w = 0xA ∨ opField w = 0xB ∨
      opField w = 0xC ∨ opField w = 0xD) ∧ argField w ≠ 0)) ∧
  (List.range 4096).countP
    (fun n => match decode (BitVec.ofNat 12 n) with | .reserved _ => true | .instr _ => false) = 3064 ∧
  ∀ st : Status, st.code ≠ 0b11

/-- A few words of sections 10 and 95_test_vectors.md section 2.1 decode as they say. -/
def Obligations.WorkedWordsDecode : Prop :=
  decode 0x141 = .instr (.write 0x41) ∧ decode 0x203 = .instr (.read 3) ∧ decode 0x545 = .instr (.rxc 0x45) ∧
  decode 0x600 = .instr .txr ∧ decode 0x944 = .instr (.hwwr 0x44) ∧ decode 0xC00 = .instr .entx ∧
  decode 0x300 = .reserved (.opcode 3) ∧ decode 0x001 = .reserved (.argument 0 1)

/-! The step. -/

/-- A word that decodes to an operation, presented on that operation's port while the port is open, is run: the step is
the operation on the state with the word taken from the input. With nothing presented the state stays. -/
def Obligations.StepRunsPresentedOperation : Prop :=
  (∀ (s : State) (t : Transaction) (rest : List Transaction) (i : Instr),
    s.input = t :: rest → s.cfg.capacity ≠ 0 → decode t.word = .instr i → t.port = i.port →
    (i.port = .ev → s.cfg.level = .M) →
    (i.port = .buf → s.cfg.level = .B ∨ s.agent ≠ .idle) →
    (i.port = .per → s.cfg.level = .M ∧ s.agent ≠ .idle) →
    step s = exec i { s with input := rest }) ∧
  ∀ s : State, s.input = [] → step s = .next s

/-- A reserved word, a word on the wrong port, and a word on a port that may not be driven now have no step: at level M a
BUF or PER word while nobody runs, at level B an EV or PER word. With CAPACITY 0 no word has one. -/
def Obligations.UnacceptedWordsHaveNoStep : Prop :=
  (∀ (s : State) (t : Transaction) (rest : List Transaction), s.input = t :: rest → s.cfg.capacity = 0 →
    step s = .refused .illegalCapacity) ∧
  ∀ (s : State) (t : Transaction) (rest : List Transaction), s.input = t :: rest → s.cfg.capacity ≠ 0 →
    (∀ why, decode t.word = .reserved why → step s = .refused (.reservedWord t.word why)) ∧
    (∀ i, decode t.word = .instr i →
      (t.port ≠ i.port → step s = .refused (.wrongPort t.port t.word)) ∧
      (t.port = i.port → s.cfg.level = .M → s.agent = .idle → i.port ≠ .ev →
        step s = .refused (.portClosed t.port t.word)) ∧
      (t.port = i.port → s.cfg.level = .B → i.port ≠ .buf → step s = .refused (.portClosed t.port t.word)))

/-- In a run, a refused word leaves the state and the step count as they were and puts its mark at the end of the record,
where it stays: no word presented later takes a mark away. -/
def Obligations.RefusalIsMarkedForTheRun : Prop :=
  (∀ (r : Run) (t : Transaction) (why : Refusal), r.fault = none → step (r.state.setInput [t]) = .refused why →
    (r.present t).state = r.state ∧ (r.present t).steps = r.steps ∧ (r.present t).fault = none ∧
    (r.present t).refused = r.refused ++ [t]) ∧
  ∀ (r : Run) (ts : List Transaction), ∃ more, (r.presentAll ts).refused = r.refused ++ more

/-- No step changes the configuration, and each takes exactly the first of the words presented. -/
def Obligations.StepKeepsConfigurationAndTakesOneWord : Prop :=
  ∀ s t : State, step s = .next t → t.cfg = s.cfg ∧ t.input = s.input.tail

/-! The FixedBuffer (40_fixedbuffer.md). -/

/-- CLEAR in any state: `length` is 0, the response is 000, nothing else changes. -/
def Obligations.ClearEmptiesBuffer : Prop :=
  ∀ s : State, exec .clear s = .next { s with length := 0, rsp := some 0x000 }

/-- WRITE with room: the byte is in the cell at the old `length`, every other cell is as before, `length` is one more
with no wrap, the response is 000, nothing else changes. -/
def Obligations.WriteAppendsAtLength : Prop :=
  ∀ (b : Byte) (s : State), s.length < s.cfg.capacity →
    ∃ t, exec (.write b) s = .next t ∧
      t = { s with storage := t.storage, length := s.length + 1, rsp := some 0x000 } ∧
      t.length.toNat = s.length.toNat + 1 ∧
      Ops.cell t s.length.toNat = b ∧ ∀ a, a ≠ s.length.toNat → Ops.cell t a = Ops.cell s a

/-- WRITE on a full buffer: the response is 100 and nothing changes. -/
def Obligations.WriteOnFullChangesNothing : Prop :=
  ∀ (b : Byte) (s : State), s.cfg.capacity ≤ s.length → exec (.write b) s = .next { s with rsp := some 0x100 }

/-- READ: below `length` the response is Success with the byte of the cell, from `length` on it is 200; nothing else
changes. -/
def Obligations.ReadAnswersByteOrOutOfRange : Prop :=
  ∀ (i : Idx) (s : State),
    (i < s.length → s.length ≤ s.cfg.capacity →
      exec (.read i) s = .next { s with rsp := some (0b00#2 ++ Ops.cell s i.toNat) }) ∧
    (s.length ≤ i → exec (.read i) s = .next { s with rsp := some 0x200 })

/-- Where a valid index is not an index of storage, which takes a `length` above CAPACITY, READ and the READ inside TXR
fault: MemRead is defined only below CAPACITY. That this is a fault is the model's (log entry 7). -/
def Obligations.ReadBeyondCapacityFaults : Prop :=
  (∀ (i : Idx) (s : State), i < s.length → s.cfg.capacity ≤ i →
    exec (.read i) s = .fault (.outsideStorage i.toNat)) ∧
  ∀ s : State, s.agent = .idle → s.txie = true → s.cursor < s.length → s.cfg.capacity ≤ s.cursor →
    exec .txr s = .fault (.outsideStorage s.cursor.toNat)

/-- What CLEAR, WRITE and READ leave unchanged. The one cell that changes is the one at `length`, in a WRITE with room. -/
def Obligations.BufferFamilyFrame : Prop :=
  ∀ (i : Instr) (s t : State), i.port = .buf → exec i s = .next t →
    t.cfg = s.cfg ∧ t.cursor = s.cursor ∧ t.mode = s.mode ∧ t.rxie = s.rxie ∧ t.txie = s.txie ∧
    t.cmdOut = s.cmdOut ∧ t.txOut = s.txOut ∧ t.dropLog = s.dropLog ∧ t.agent = s.agent ∧ t.input = s.input ∧
    ((∃ k, i = .read k) → t.length = s.length) ∧
    ((∃ b, i = .write b) → ¬ s.length < s.cfg.capacity → t.length = s.length) ∧
    ∀ a, ((∃ b, i = .write b) → s.length < s.cfg.capacity → a ≠ address s.length) → Ops.cell t a = Ops.cell s a

/-- The buffer is deterministic: a READ of the pre-increment `length` right after a successful WRITE answers the byte just
written; and after a CLEAR and any buffer operations behind it, the bytes returned by increasing index are those written
since the last CLEAR, in insertion order. -/
def Obligations.BufferIsDeterministic : Prop :=
  (∀ (b : Byte) (s : State), s.length < s.cfg.capacity →
    ∃ t u, exec (.write b) s = .next t ∧ t.rsp = some 0x000 ∧
      exec (.read s.length) t = .next u ∧ u.rsp = some (0b00#2 ++ b)) ∧
  ∀ (s : State) (is : List Instr), (∀ i ∈ is, i.port = .buf) →
    ∃ t rs, execAll (.clear :: is) s = some (t, rs) ∧
      t.length.toNat = (entriesAfter s.cfg.capacity.toNat is).length ∧
      ∀ (k : Idx) (h : k.toNat < (entriesAfter s.cfg.capacity.toNat is).length),
        exec (.read k) t = .next { t with rsp := some (0b00#2 ++ (entriesAfter s.cfg.capacity.toNat is)[k.toNat]) }

/-- The source's four testable properties of the buffer: writes are read back in order and nothing past them; WRITE on a
full buffer; after CLEAR, READ 0 is out of range until a WRITE; CLEAR twice is CLEAR once. -/
def Obligations.BufferTestableProperties : Prop :=
  (∀ (s : State) (bs : List Byte), s.length = 0 → bs.length ≤ s.cfg.capacity.toNat →
    ∃ t, execAll (bs.map .write) s = some (t, List.replicate bs.length (some 0x000)) ∧
      t.length.toNat = bs.length ∧
      ∀ i : Idx,
        (∀ h : i.toNat < bs.length, exec (.read i) t = .next { t with rsp := some (0b00#2 ++ bs[i.toNat]) }) ∧
        (bs.length ≤ i.toNat → exec (.read i) t = .next { t with rsp := some 0x200 })) ∧
  (∀ (b : Byte) (s : State), s.length = s.cfg.capacity → exec (.write b) s = .next { s with rsp := some 0x100 }) ∧
  (∀ (s : State) (is : List Instr), (∀ i ∈ is, i = .clear ∨ ∃ k, i = .read k) →
    ∃ t rs, execAll (.clear :: is) s = some (t, rs) ∧ t.length = 0 ∧
      exec (.read 0) t = .next { t with rsp := some 0x200 }) ∧
  ∀ s : State, ∃ t, exec .clear s = .next t ∧ exec .clear t = .next t ∧ t.length = 0

/-- CLEAR, READ and the four toggles done twice leave what doing them once leaves, but for the command trace. -/
def Obligations.RepeatedOperationsAreIdempotent : Prop :=
  ∀ (i : Instr) (s t u : State),
    i = .clear ∨ (∃ k, i = .read k) ∨ i = .enrx ∨ i = .disrx ∨ i = .entx ∨ i = .distx →
    exec i s = .next t → exec i t = .next u → u = { t with cmdOut := u.cmdOut }

/-- The response of every operation: CLEAR 000; WRITE 000 or 100; READ the byte with Success, or 200; HWRD the byte of
the event with Success; the others none. No response has the reserved status code. -/
def Obligations.ResponseOfEachOperation : Prop :=
  ∀ (i : Instr) (s t : State), exec i s = .next t →
    t.rsp = (match i with
      | .clear => some 0x000
      | .write _ => some (if s.length < s.cfg.capacity then 0x000 else 0x100)
      | .read k => some (if k < s.length then 0b00#2 ++ Ops.cell s k.toNat else 0x200)
      | .hwrd => (match s.agent with
        | .rxh d _ => some (0b00#2 ++ d)
        | .idle => none
        | .fg => none
        | .txh _ => none)
      | .init => none
      | .rxc _ => none
      | .txr => none
      | .hwwr _ => none
      | .enrx => none
      | .disrx => none
      | .entx => none
      | .distx => none) ∧
    ∀ r, t.rsp = some r → r.extractLsb' 8 2 ≠ 0b11

/-! The events (41_state_machine.md). -/

/-- INIT with both interrupts disabled, between steps: the buffer is cleared, the mode is Receiving, the receive interrupt
is enabled, ENRX is emitted, nothing else changes. -/
def Obligations.InitStartsReceiving : Prop :=
  ∀ s : State, s.agent = .idle → s.rxie = false → s.txie = false →
    exec .init s = .next { s with length := 0, mode := .receiving, rxie := true, cmdOut := s.cmdOut ++ [.enrx],
                                  rsp := none }

/-- INIT once either interrupt is enabled, between steps, is refused. -/
def Obligations.InitRunsOnlyOnce : Prop :=
  ∀ s : State, s.agent = .idle → s.rxie = true ∨ s.txie = true → exec .init s = .refused .alreadyInitialized

/-- RXC with the receive interrupt enabled and room: HWRD is emitted, the byte is in the cell at the old `length`, every
other cell is as before, `length` is one more, nothing else changes (the mode neither). -/
def Obligations.RxcStoresByteWithRoom : Prop :=
  ∀ (d : Byte) (s : State), s.agent = .idle → s.rxie = true → s.length < s.cfg.capacity →
    ∃ t, exec (.rxc d) s = .next t ∧
      t = { s with storage := t.storage, length := s.length + 1, cmdOut := s.cmdOut ++ [.hwrd], rsp := none } ∧
      t.length.toNat = s.length.toNat + 1 ∧
      Ops.cell t s.length.toNat = d ∧ ∀ a, a ≠ s.length.toNat → Ops.cell t a = Ops.cell s a

/-- The overflow transition: the byte is dropped, HWRD, DISRX, ENTX are emitted in that order, both enable bits, the
cursor and the mode change in this one step; storage and `length` do not. -/
def Obligations.RxcOverflowStartsDrain : Prop :=
  ∀ (d : Byte) (s : State), s.agent = .idle → s.rxie = true → s.length = s.cfg.capacity →
    exec (.rxc d) s = .next { s with rxie := false, txie := true, cursor := 0, mode := .transmitting,
                                     cmdOut := s.cmdOut ++ [.hwrd, .disrx, .entx], dropLog := s.dropLog ++ [d],
                                     rsp := none }

/-- The send branch: HWWR of the byte at `cursor` is emitted and the byte sent, the cursor is one more, at most `length`
and with no wrap; nothing else changes. -/
def Obligations.TxrSendsByteAtCursor : Prop :=
  ∀ s : State, s.agent = .idle → s.txie = true → s.cursor < s.length → s.length ≤ s.cfg.capacity →
    exec .txr s = .next { s with cursor := s.cursor + 1, txOut := s.txOut ++ [Ops.cell s s.cursor.toNat],
                                 cmdOut := s.cmdOut ++ [.hwwr (Ops.cell s s.cursor.toNat)], rsp := none } ∧
    (s.cursor + 1).toNat = s.cursor.toNat + 1 ∧ s.cursor + 1 ≤ s.length

/-- The drain-complete transition: the buffer is cleared, DISTX, ENRX are emitted in that order, both enable bits and the
mode change in this one step; storage and the cursor do not, and no byte is sent. In a reachable state the cursor then
equals `length` and CAPACITY. -/
def Obligations.TxrPastLastByteEndsDrain : Prop :=
  ∀ s : State, s.agent = .idle → s.txie = true → s.length ≤ s.cursor →
    exec .txr s = .next { s with length := 0, txie := false, rxie := true, mode := .receiving,
                                 cmdOut := s.cmdOut ++ [.distx, .enrx], rsp := none } ∧
    (s.Inv → s.cursor = s.length ∧ s.length = s.cfg.capacity)

/-- Event delivery: between steps, an event whose enable bit is 0 is refused, one whose bit is 1 is delivered and its
handler completes (`length` at most CAPACITY); in the lockstep RXC is enabled exactly in Receiving and TXR exactly in
Transmitting; before INIT neither is delivered. -/
def Obligations.EventsAreDeliveredWhenEnabled : Prop :=
  ∀ s : State, s.agent = .idle →
    (∀ d, s.rxie = false → exec (.rxc d) s = .refused .receiveNotEnabled) ∧
    (s.txie = false → exec .txr s = .refused .transmitNotEnabled) ∧
    (∀ d, s.rxie = true → ∃ t, exec (.rxc d) s = .next t) ∧
    (s.txie = true → s.length ≤ s.cfg.capacity → ∃ t, exec .txr s = .next t) ∧
    (s.Lockstep → (s.rxie = true ↔ s.mode = .receiving) ∧ (s.txie = true ↔ s.mode = .transmitting)) ∧
    (s.IsReset → s.rxie = false ∧ s.txie = false)

/-- No event is delivered while a handler runs: handlers do not nest. -/
def Obligations.HandlersDoNotNest : Prop :=
  ∀ (i : Instr) (s : State), i.port = .ev → s.agent ≠ .idle → exec i s = .refused .handlerRunning

/-- A handler that completes has returned: nobody runs, no response stands, and the bits it left choose the next event:
from there an RXC is delivered exactly if `rxie` is 1, a TXR exactly if `txie` is 1 (`length` at most CAPACITY), an INIT
exactly if both are 0. In the lockstep before it, in the lockstep after it. -/
def Obligations.HandlersReturn : Prop :=
  ∀ (i : Instr) (s t : State), i.port = .ev → exec i s = .next t →
    t.agent = .idle ∧ t.rsp = none ∧ (s.Lockstep → t.Lockstep) ∧
    (∀ d, (∃ u, exec (.rxc d) t = .next u) ↔ t.rxie = true) ∧
    (s.length ≤ s.cfg.capacity → ((∃ u, exec .txr t = .next u) ↔ t.txie = true)) ∧
    ((∃ u, exec .init t = .next u) ↔ t.rxie = false ∧ t.txie = false)

/-- What INIT, RXC and TXR leave unchanged. The one cell that changes is the one at `length`, in an RXC with room. -/
def Obligations.EventFamilyFrame : Prop :=
  ∀ (i : Instr) (s t : State), i.port = .ev → exec i s = .next t →
    t.cfg = s.cfg ∧ t.input = s.input ∧ t.agent = s.agent ∧
    (t.txOut = s.txOut ∨ i = .txr ∧ s.cursor < s.length) ∧
    (t.dropLog = s.dropLog ∨ (∃ d, i = .rxc d) ∧ ¬ s.length < s.cfg.capacity) ∧
    (t.cursor = s.cursor ∨ (∃ d, i = .rxc d) ∧ ¬ s.length < s.cfg.capacity ∨ i = .txr ∧ s.cursor < s.length) ∧
    (t.length = s.length ∨ (∃ d, i = .rxc d) ∧ s.length < s.cfg.capacity ∨ i = .txr ∧ ¬ s.cursor < s.length ∨
      i = .init) ∧
    (t.rxie = s.rxie ∧ t.txie = s.txie ∧ t.mode = s.mode ∨ (∃ d, i = .rxc d) ∧ ¬ s.length < s.cfg.capacity ∨
      i = .txr ∧ ¬ s.cursor < s.length ∨ i = .init ∧ t.txie = s.txie) ∧
    ∀ a, ((∃ d, i = .rxc d) → s.length < s.cfg.capacity → a ≠ address s.length) → Ops.cell t a = Ops.cell s a

/-- The complete transition table: between steps, with `length` at most CAPACITY, each event does what its row says and
nothing more, and is refused where no row applies; and no operation but T2 and T4 changes the mode. -/
def Obligations.EventsFollowTransitionTable : Prop :=
  (∀ (i : Instr) (s : State), i.port = .ev → s.agent = .idle → s.length ≤ s.cfg.capacity →
    match tableStep i s with
    | some t => exec i s = .next t
    | none => ∃ why, exec i s = .refused why) ∧
  ∀ (i : Instr) (s t : State), s.agent = .idle → s.Uninitialized ∨ s.Lockstep → exec i s = .next t →
    (t.mode ≠ s.mode ↔ (∃ d, i = .rxc d) ∧ ¬ s.length < s.cfg.capacity ∨ i = .txr ∧ ¬ s.cursor < s.length)

/-- The order of the commands of each handler: INIT emits ENRX; RXC emits HWRD, or HWRD, DISRX, ENTX; TXR emits one HWWR,
or DISTX, ENRX. -/
def Obligations.HandlerCommandOrder : Prop :=
  ∀ (i : Instr) (s t : State), i.port = .ev → exec i s = .next t →
    (i = .init → t.cmdOut = s.cmdOut ++ [.enrx]) ∧
    ((∃ d, i = .rxc d) →
      t.cmdOut = s.cmdOut ++ (if s.length < s.cfg.capacity then [.hwrd] else [.hwrd, .disrx, .entx])) ∧
    (i = .txr →
      t.cmdOut = s.cmdOut ++
        (if s.cursor < s.length then [.hwwr (Ops.cell s s.cursor.toNat)] else [.distx, .enrx]))

/-- The mode changes only at the overflow transition, at the drain-complete transition and at INIT. -/
def Obligations.ModeChangesOnlyAtTransitions : Prop :=
  ∀ (i : Instr) (s t : State), exec i s = .next t → t.mode ≠ s.mode →
    ((∃ d, i = .rxc d) ∧ ¬ s.length < s.cfg.capacity ∧ t.mode = .transmitting) ∨
    (i = .txr ∧ ¬ s.cursor < s.length ∧ t.mode = .receiving) ∨ (i = .init ∧ t.mode = .receiving)

/-- The cycle law: from Receiving with an empty buffer, CAPACITY + 1 RXC events and CAPACITY + 1 TXR events return the
block there in 2 CAPACITY + 2 steps, with the first CAPACITY bytes sent in order and the last one dropped; and no other
sequence of so many words is a sequence of steps. -/
def Obligations.FullCycleEchoesAndDropsOne : Prop :=
  ∀ s : State, s.cfg.capacity ≠ 0 → s.cfg.level = .M → s.agent = .idle → s.ReceivingLine → s.length = 0 →
    (∀ (ds : List Byte) (d : Byte), ds.length = s.cfg.capacity.toNat →
      ∃ t : State,
        core.run (2 * s.cfg.capacity.toNat + 2)
          { s with input := rxs ds ++ rxs [d] ++ drain (s.cfg.capacity.toNat + 1) } = .next t ∧
        t.ReceivingLine ∧ t.length = 0 ∧ t.agent = .idle ∧ t.input = [] ∧
        t.txOut = s.txOut ++ ds ∧ t.dropLog = s.dropLog ++ [d] ∧
        t.cmdOut = s.cmdOut ++ List.replicate s.cfg.capacity.toNat .hwrd ++ [.hwrd, .disrx, .entx] ++
          ds.map .hwwr ++ [.distx, .enrx]) ∧
    ∀ (es : List Transaction) (t : State), es.length = 2 * s.cfg.capacity.toNat + 2 →
      core.run (2 * s.cfg.capacity.toNat + 2) { s with input := es } = .next t →
      ∃ (ds : List Byte) (d : Byte), ds.length = s.cfg.capacity.toNat ∧
        es = rxs ds ++ rxs [d] ++ drain (s.cfg.capacity.toNat + 1)

/-! The peripheral commands (42_peripheral_primitives.md). -/

/-- HWRD: in a receive handler that has not taken its byte, it answers the byte of the event and emits HWRD; anywhere else
it is refused. -/
def Obligations.HwrdTakesTheEventByteOnce : Prop :=
  ∀ s : State,
    (∀ d, s.agent = .rxh d false →
      exec .hwrd s = .next { s with cmdOut := s.cmdOut ++ [.hwrd], agent := .rxh d true,
                                    rsp := some (0b00#2 ++ d) }) ∧
    ((∀ d, s.agent ≠ .rxh d false) → exec .hwrd s = .refused .noReceivedByte)

/-- HWWR: in a transmit handler that has handed over no byte, it emits HWWR and sends the byte; anywhere else it is
refused. -/
def Obligations.HwwrHandsOverOneByte : Prop :=
  ∀ (b : Byte) (s : State),
    (s.agent = .txh false →
      exec (.hwwr b) s = .next { s with cmdOut := s.cmdOut ++ [.hwwr b], txOut := s.txOut ++ [b], agent := .txh true,
                                        rsp := none }) ∧
    (s.agent ≠ .txh false → exec (.hwwr b) s = .refused .noTransmitReady)

/-- ENRX, DISRX, ENTX, DISTX: each emits itself and sets or clears its one enable bit, in every state. -/
def Obligations.TogglesSetTheirEnableBit : Prop :=
  ∀ s : State,
    exec .enrx s = .next { s with cmdOut := s.cmdOut ++ [.enrx], rxie := true, rsp := none } ∧
    exec .disrx s = .next { s with cmdOut := s.cmdOut ++ [.disrx], rxie := false, rsp := none } ∧
    exec .entx s = .next { s with cmdOut := s.cmdOut ++ [.entx], txie := true, rsp := none } ∧
    exec .distx s = .next { s with cmdOut := s.cmdOut ++ [.distx], txie := false, rsp := none }

/-- What the six commands leave unchanged: storage, `length`, `cursor`, `mode`, `drop_log`, and each enable bit that is
not the command's own. -/
def Obligations.PeripheralFamilyFrame : Prop :=
  ∀ (i : Instr) (s t : State), i.port = .per → exec i s = .next t →
    t.cfg = s.cfg ∧ t.storage = s.storage ∧ t.length = s.length ∧ t.cursor = s.cursor ∧ t.mode = s.mode ∧
    t.dropLog = s.dropLog ∧ t.input = s.input ∧
    (t.rxie = s.rxie ∨ i = .enrx ∨ i = .disrx) ∧ (t.txie = s.txie ∨ i = .entx ∨ i = .distx) ∧
    (t.txOut = s.txOut ∨ ∃ b, i = .hwwr b) ∧ (t.agent = s.agent ∨ i = .hwrd ∨ ∃ b, i = .hwwr b) ∧
    ∃ c, t.cmdOut = s.cmdOut ++ [c]

/-- Whatever runs, the new enable bits are what the emitted commands leave of the old ones, and the bytes sent are those
of the emitted HWWR commands; the traces only grow, the drop log by at most one byte. -/
def Obligations.EffectsFollowEmittedCommands : Prop :=
  ∀ (i : Instr) (s t : State), exec i s = .next t →
    ∃ (new : List Command) (drops : List Byte),
      t.cmdOut = s.cmdOut ++ new ∧ t.rxie = new.foldl Command.rxieAfter s.rxie ∧
      t.txie = new.foldl Command.txieAfter s.txie ∧ t.txOut = s.txOut ++ new.filterMap Command.sent ∧
      t.dropLog = s.dropLog ++ drops ∧ drops.length ≤ 1

/-! Invariants and whole-machine rules (10_state.md). -/

/-- What the spec gives for reset: `length` 0, Receiving, both interrupts disabled, the traces empty. -/
def Obligations.ResetLeavesTheSpecsValues : Prop :=
  State.reset.length = 0 ∧ State.reset.mode = .receiving ∧ State.reset.rxie = false ∧ State.reset.txie = false ∧
  State.reset.cmdOut = [] ∧ State.reset.txOut = [] ∧ State.reset.dropLog = [] ∧ State.reset.cfg.capacity = 4

/-- After reset, whatever the cursor and storage hold, the invariant, the drain order and the explained traces hold. -/
def Obligations.ResetMeetsTheInvariants : Prop :=
  (∀ s : State, s.IsReset → s.cfg.wellFormed = true → s.StorageFits → s.Inv ∧ s.DrainOrdered ∧ s.Explained) ∧
  State.reset.Inv

/-- Every step keeps the invariant. -/
def Obligations.StepKeepsTheInvariant : Prop :=
  ∀ s t : State, s.Inv → step s = .next t → t.Inv

/-- Every step keeps the drain order I-e, in states whose traces explain the outputs. -/
def Obligations.StepKeepsDrainOrder : Prop :=
  ∀ s t : State, s.Inv → s.Explained → s.DrainOrdered → step s = .next t → t.DrainOrdered

/-- Every step keeps the traces explaining the enable bits and the bytes sent. -/
def Obligations.StepKeepsTracesExplained : Prop :=
  ∀ s t : State, s.Explained → step s = .next t → t.Explained

/-- In every state reachable from reset, I-a to I-e hold. INIT has run exactly if `cmd_out` is not empty. -/
def Obligations.ReachableStatesMeetDerivedInvariants : Prop :=
  ∀ (s t : State) (k : Nat), s.IsReset → s.cfg.wellFormed = true → s.StorageFits → core.run k s = .next t →
    (0 ≤ t.length ∧ t.length ≤ t.cfg.capacity) ∧
    (t.cmdOut ≠ [] → t.Lockstep ∧ ¬ (t.ReceivingLine ∧ t.TransmittingLine)) ∧
    (t.mode = .transmitting → t.length = t.cfg.capacity ∧ 0 ≤ t.cursor ∧ t.cursor ≤ t.length) ∧
    (t.mode = .receiving → t.rxie = true → 0 ≤ t.length ∧ t.length ≤ t.cfg.capacity) ∧
    t.DrainOrdered

/-- The lockstep: INIT establishes it, every step between observable instants keeps it, its two lines exclude each other,
and before INIT both bits are 0 and it does not hold. -/
def Obligations.LockstepFromInitOn : Prop :=
  (∀ s t : State, exec .init s = .next t → t.Lockstep) ∧
  (∀ s t : State, s.agent = .idle → s.Lockstep → step s = .next t → t.agent = .idle ∧ t.Lockstep) ∧
  (∀ s : State, ¬ (s.ReceivingLine ∧ s.TransmittingLine)) ∧
  ∀ s : State, s.IsReset → s.rxie = false ∧ s.txie = false ∧ ¬ s.Lockstep

/-- No step from a state that meets the invariant faults: no index at or above CAPACITY is ever touched. -/
def Obligations.NoReachableFault : Prop :=
  ∀ (s : State) (f : Fault), s.Inv → step s ≠ .fault f

/-- `length` and `cursor` never wrap. Where a step changes `length`, it is a WRITE or an RXC with room and adds exactly
one as an integer, or it is CLEAR, INIT or the end of a drain and sets 0; where a step changes `cursor`, it is a TXR that
sends and adds exactly one, or it is the overflow and sets 0. -/
def Obligations.CountersNeverWrap : Prop :=
  ∀ s t : State, s.Inv → step s = .next t →
    (t.length = s.length ∨
      (∃ b, s.presented = some (.write b) ∨ s.presented = some (.rxc b)) ∧ s.length < s.cfg.capacity ∧
        t.length.toNat = s.length.toNat + 1 ∨
      (s.presented = some .clear ∨ s.presented = some .init ∨ s.presented = some .txr ∧ ¬ s.cursor < s.length) ∧
        t.length = 0) ∧
    (t.cursor = s.cursor ∨
      s.presented = some .txr ∧ s.cursor < s.length ∧ t.cursor.toNat = s.cursor.toNat + 1 ∨
      (∃ d, s.presented = some (.rxc d)) ∧ ¬ s.length < s.cfg.capacity ∧ t.cursor = 0)

/-- Stale cells, and the cursor outside Transmitting, cannot be seen: two states that differ only there have the same
outcome of a step, and differ only there after it. -/
def Obligations.StaleStateIsNeverSeen : Prop :=
  ∀ s t : State, s.Inv → s.SameVisible t →
    (∀ u, step s = .next u → ∃ v, step t = .next v ∧ u.SameVisible v) ∧
    (∀ why, step s = .refused why → step t = .refused why)

/-- After reset at level M the first step of a run is INIT: INIT presented on EV is a step, and no other word is. -/
def Obligations.OnlyInitStepsAfterReset : Prop :=
  ∀ (s : State) (t : Transaction) (rest : List Transaction), s.IsReset → s.cfg.level = .M → s.cfg.capacity ≠ 0 →
    s.input = t :: rest → ((∃ u, step s = .next u) ↔ t = present .init)

/-- At level B the state machine does not exist: no step changes its registers, the enable bits or a trace. -/
def Obligations.LevelBTouchesBufferOnly : Prop :=
  ∀ s t : State, s.cfg.level = .B → step s = .next t →
    t.cursor = s.cursor ∧ t.mode = s.mode ∧ t.rxie = s.rxie ∧ t.txie = s.txie ∧ t.cmdOut = s.cmdOut ∧
    t.txOut = s.txOut ∧ t.dropLog = s.dropLog

/-- Once INIT has run the lockstep holds: it is so right after reset (INIT has not run), and every step keeps it so. -/
def Obligations.StepKeepsLockstepOnceStarted : Prop :=
  (∀ s : State, s.IsReset → s.LockstepOnceStarted) ∧
  ∀ s t : State, s.Inv → s.LockstepOnceStarted → step s = .next t → t.LockstepOnceStarted

/-- What leaves on PER is one operation word for each command: a word of the six rows of PER, that of the operation for a
command run by itself; and each event passes the words of its handler, in order, where a buffer operation passes none. -/
def Obligations.EmittedCommandsAreOperationWords : Prop :=
  (∀ c : Command, c.onPer.port = .per ∧ c.instr.port = .per ∧ decode c.onPer.word = .instr c.instr) ∧
  ∀ (i : Instr) (s t : State), exec i s = .next t →
    t.perOut = s.perOut ++ (match i with
      | .clear => []
      | .write _ => []
      | .read _ => []
      | .init => [{ port := .per, word := 0xA00 }]
      | .rxc _ =>
        if s.length < s.cfg.capacity then [{ port := .per, word := 0x800 }]
        else [{ port := .per, word := 0x800 }, { port := .per, word := 0xB00 }, { port := .per, word := 0xC00 }]
      | .txr =>
        if s.cursor < s.length then [{ port := .per, word := 0x9#4 ++ Ops.cell s s.cursor.toNat }]
        else [{ port := .per, word := 0xD00 }, { port := .per, word := 0xA00 }]
      | .hwrd => [{ port := .per, word := 0x800 }]
      | .hwwr b => [{ port := .per, word := 0x9#4 ++ b }]
      | .enrx => [{ port := .per, word := 0xA00 }]
      | .disrx => [{ port := .per, word := 0xB00 }]
      | .entx => [{ port := .per, word := 0xC00 }]
      | .distx => [{ port := .per, word := 0xD00 }])
end

