-- ==== Sys2Proof/Laws/Encoding.lean ====
section
/-! SUPPORT. A word is its two fields: the small lemmas of the decoder and the encoder. -/

namespace Sys2Proof

@[simp] theorem opField_append (op : BitVec 4) (arg : Byte) : opField (op ++ arg) = op := by
  revert op arg
  decide

@[simp] theorem argField_append (op : BitVec 4) (arg : Byte) : argField (op ++ arg) = arg := by
  revert op arg
  decide

theorem fields_append (w : OpWord) : opField w ++ argField w = w := by
  revert w
  set_option maxRecDepth 100000 in decide

theorem append_inj {op op' : BitVec 4} {arg arg' : Byte} :
    (op ++ arg : OpWord) = op' ++ arg' ↔ op = op' ∧ arg = arg' := by
  constructor
  · intro h
    have h1 := congrArg opField h
    have h2 := congrArg argField h
    simp only [opField_append, argField_append] at h1 h2
    exact ⟨h1, h2⟩
  · rintro ⟨rfl, rfl⟩
    rfl

@[simp] theorem decode_append (op : BitVec 4) (arg : Byte) : decode (op ++ arg) = decodeFields op arg := by
  simp only [decode, opField_append, argField_append]

@[simp] theorem opField_encode (i : Instr) : opField (encode i) = i.opcode := opField_append _ _
@[simp] theorem argField_encode (i : Instr) : argField (encode i) = i.arg := argField_append _ _

/-- A word masked to its `op` field, as the rows of formats D and X mask it. -/
theorem append_mask_op (op : BitVec 4) (arg : Byte) : (op ++ arg : OpWord) &&& 0xF00 = op ++ 0#8 := by
  revert op arg
  decide

/-- The mask of format Z keeps every bit. -/
theorem mask_all (w : OpWord) : w &&& 0xFFF = w := by
  revert w
  set_option maxRecDepth 100000 in decide

/-- The column `match` is the opcode with a zero `arg`. -/
theorem matchBits_eq (i : Instr) : i.matchBits = i.opcode ++ 0#8 := by
  cases i <;> (simp only [Instr.matchBits, Instr.opcode]; decide)

end Sys2Proof
end

