-- ==== Sys2Proof/Laws/Memory.lean ====
section
/-! SUPPORT. Storage: a read after a write, and the canonical form that every write keeps. -/

namespace Sys2Proof.Machine

@[simp] theorem Memory.find_nil (a : Nat) : Memory.find [] a = none := rfl

theorem Memory.find_store_same (m : Memory) (a : Nat) (b : Byte) : (m.store a b).find a = some b := by
  induction m with
  | nil => simp [Memory.store, Memory.find]
  | cons c m ih =>
    simp only [Memory.store]
    split
    · simp [Memory.find]
    · split
      · simp [Memory.find]
      · rename_i h
        simp [Memory.find, Ne.symm h, ih]

theorem Memory.find_store_other (m : Memory) {a k : Nat} (b : Byte) (h : k ≠ a) :
    (m.store a b).find k = m.find k := by
  induction m with
  | nil => simp [Memory.store, Memory.find, Ne.symm h]
  | cons c m ih =>
    simp only [Memory.store]
    split
    · simp [Memory.find, Ne.symm h]
    · split
      · rename_i e
        subst e
        simp [Memory.find, Ne.symm h]
      · simp [Memory.find, ih]

theorem Memory.find_store (m : Memory) (a k : Nat) (b : Byte) :
    (m.store a b).find k = if k = a then some b else m.find k := by
  split
  · rename_i h
    subst h
    exact find_store_same m _ b
  · rename_i h
    exact find_store_other m b h

/-- An address in the stored memory is the one written or was there before. -/
theorem Memory.mem_store {m : Memory} {a : Nat} {b : Byte} {c : Host.Cell} (h : c ∈ m.store a b) :
    c = (a, b) ∨ c ∈ m := by
  induction m with
  | nil => exact .inl (by simpa [Memory.store] using h)
  | cons d m ih =>
    simp only [Memory.store] at h
    split at h
    · simpa using h
    · split at h
      · rcases List.mem_cons.mp h with h | h
        · exact .inl h
        · exact .inr (List.mem_cons_of_mem _ h)
      · rcases List.mem_cons.mp h with h | h
        · exact .inr (h ▸ List.mem_cons_self)
        · exact (ih h).imp_right (List.mem_cons_of_mem _)

theorem Memory.store_wf {m : Memory} (h : m.wf) (a : Nat) (b : Byte) : (m.store a b).wf := by
  induction m with
  | nil => simp [Memory.wf, Memory.store]
  | cons c m ih =>
    obtain ⟨hc, hm⟩ := List.pairwise_cons.mp h
    simp only [Memory.store]
    split
    · rename_i hlt
      refine List.pairwise_cons.mpr ⟨fun d hd => ?_, h⟩
      rcases List.mem_cons.mp hd with hd | hd
      · exact hd ▸ hlt
      · exact Nat.lt_trans hlt (hc d hd)
    · split
      · rename_i e
        exact List.pairwise_cons.mpr ⟨fun d hd => e ▸ hc d hd, hm⟩
      · rename_i h1 h2
        refine List.pairwise_cons.mpr ⟨fun d hd => ?_, ih hm⟩
        rcases Memory.mem_store hd with hd | hd
        · subst hd
          simp only
          omega
        · exact hc d hd

/-- The memory at reset has the canonical form. -/
theorem Memory.reset_wf : State.reset.storage.wf := List.Pairwise.nil

end Sys2Proof.Machine
end

