-- ==== Sys2Proof/Laws/State.lean ====
section
/-! SUPPORT. What every field is after every one-field write, by rfl. -/

namespace Sys2Proof.Machine

variable (s : State)

/-! setStorage -/

@[simp] theorem State.setStorage_cfg (m : Memory) : (s.setStorage m).cfg = s.cfg := rfl
@[simp] theorem State.setStorage_storage (m : Memory) : (s.setStorage m).storage = m := rfl
@[simp] theorem State.setStorage_length (m : Memory) : (s.setStorage m).length = s.length := rfl
@[simp] theorem State.setStorage_cursor (m : Memory) : (s.setStorage m).cursor = s.cursor := rfl
@[simp] theorem State.setStorage_mode (m : Memory) : (s.setStorage m).mode = s.mode := rfl
@[simp] theorem State.setStorage_rxie (m : Memory) : (s.setStorage m).rxie = s.rxie := rfl
@[simp] theorem State.setStorage_txie (m : Memory) : (s.setStorage m).txie = s.txie := rfl
@[simp] theorem State.setStorage_cmdOut (m : Memory) : (s.setStorage m).cmdOut = s.cmdOut := rfl
@[simp] theorem State.setStorage_txOut (m : Memory) : (s.setStorage m).txOut = s.txOut := rfl
@[simp] theorem State.setStorage_dropLog (m : Memory) : (s.setStorage m).dropLog = s.dropLog := rfl
@[simp] theorem State.setStorage_agent (m : Memory) : (s.setStorage m).agent = s.agent := rfl
@[simp] theorem State.setStorage_rsp (m : Memory) : (s.setStorage m).rsp = s.rsp := rfl
@[simp] theorem State.setStorage_input (m : Memory) : (s.setStorage m).input = s.input := rfl

/-! setLength -/

@[simp] theorem State.setLength_cfg (n : Idx) : (s.setLength n).cfg = s.cfg := rfl
@[simp] theorem State.setLength_storage (n : Idx) : (s.setLength n).storage = s.storage := rfl
@[simp] theorem State.setLength_length (n : Idx) : (s.setLength n).length = n := rfl
@[simp] theorem State.setLength_cursor (n : Idx) : (s.setLength n).cursor = s.cursor := rfl
@[simp] theorem State.setLength_mode (n : Idx) : (s.setLength n).mode = s.mode := rfl
@[simp] theorem State.setLength_rxie (n : Idx) : (s.setLength n).rxie = s.rxie := rfl
@[simp] theorem State.setLength_txie (n : Idx) : (s.setLength n).txie = s.txie := rfl
@[simp] theorem State.setLength_cmdOut (n : Idx) : (s.setLength n).cmdOut = s.cmdOut := rfl
@[simp] theorem State.setLength_txOut (n : Idx) : (s.setLength n).txOut = s.txOut := rfl
@[simp] theorem State.setLength_dropLog (n : Idx) : (s.setLength n).dropLog = s.dropLog := rfl
@[simp] theorem State.setLength_agent (n : Idx) : (s.setLength n).agent = s.agent := rfl
@[simp] theorem State.setLength_rsp (n : Idx) : (s.setLength n).rsp = s.rsp := rfl
@[simp] theorem State.setLength_input (n : Idx) : (s.setLength n).input = s.input := rfl

/-! setCursor -/

@[simp] theorem State.setCursor_cfg (n : Idx) : (s.setCursor n).cfg = s.cfg := rfl
@[simp] theorem State.setCursor_storage (n : Idx) : (s.setCursor n).storage = s.storage := rfl
@[simp] theorem State.setCursor_length (n : Idx) : (s.setCursor n).length = s.length := rfl
@[simp] theorem State.setCursor_cursor (n : Idx) : (s.setCursor n).cursor = n := rfl
@[simp] theorem State.setCursor_mode (n : Idx) : (s.setCursor n).mode = s.mode := rfl
@[simp] theorem State.setCursor_rxie (n : Idx) : (s.setCursor n).rxie = s.rxie := rfl
@[simp] theorem State.setCursor_txie (n : Idx) : (s.setCursor n).txie = s.txie := rfl
@[simp] theorem State.setCursor_cmdOut (n : Idx) : (s.setCursor n).cmdOut = s.cmdOut := rfl
@[simp] theorem State.setCursor_txOut (n : Idx) : (s.setCursor n).txOut = s.txOut := rfl
@[simp] theorem State.setCursor_dropLog (n : Idx) : (s.setCursor n).dropLog = s.dropLog := rfl
@[simp] theorem State.setCursor_agent (n : Idx) : (s.setCursor n).agent = s.agent := rfl
@[simp] theorem State.setCursor_rsp (n : Idx) : (s.setCursor n).rsp = s.rsp := rfl
@[simp] theorem State.setCursor_input (n : Idx) : (s.setCursor n).input = s.input := rfl

/-! setMode -/

@[simp] theorem State.setMode_cfg (m : Mode) : (s.setMode m).cfg = s.cfg := rfl
@[simp] theorem State.setMode_storage (m : Mode) : (s.setMode m).storage = s.storage := rfl
@[simp] theorem State.setMode_length (m : Mode) : (s.setMode m).length = s.length := rfl
@[simp] theorem State.setMode_cursor (m : Mode) : (s.setMode m).cursor = s.cursor := rfl
@[simp] theorem State.setMode_mode (m : Mode) : (s.setMode m).mode = m := rfl
@[simp] theorem State.setMode_rxie (m : Mode) : (s.setMode m).rxie = s.rxie := rfl
@[simp] theorem State.setMode_txie (m : Mode) : (s.setMode m).txie = s.txie := rfl
@[simp] theorem State.setMode_cmdOut (m : Mode) : (s.setMode m).cmdOut = s.cmdOut := rfl
@[simp] theorem State.setMode_txOut (m : Mode) : (s.setMode m).txOut = s.txOut := rfl
@[simp] theorem State.setMode_dropLog (m : Mode) : (s.setMode m).dropLog = s.dropLog := rfl
@[simp] theorem State.setMode_agent (m : Mode) : (s.setMode m).agent = s.agent := rfl
@[simp] theorem State.setMode_rsp (m : Mode) : (s.setMode m).rsp = s.rsp := rfl
@[simp] theorem State.setMode_input (m : Mode) : (s.setMode m).input = s.input := rfl

/-! setRxie -/

@[simp] theorem State.setRxie_cfg (b : Bool) : (s.setRxie b).cfg = s.cfg := rfl
@[simp] theorem State.setRxie_storage (b : Bool) : (s.setRxie b).storage = s.storage := rfl
@[simp] theorem State.setRxie_length (b : Bool) : (s.setRxie b).length = s.length := rfl
@[simp] theorem State.setRxie_cursor (b : Bool) : (s.setRxie b).cursor = s.cursor := rfl
@[simp] theorem State.setRxie_mode (b : Bool) : (s.setRxie b).mode = s.mode := rfl
@[simp] theorem State.setRxie_rxie (b : Bool) : (s.setRxie b).rxie = b := rfl
@[simp] theorem State.setRxie_txie (b : Bool) : (s.setRxie b).txie = s.txie := rfl
@[simp] theorem State.setRxie_cmdOut (b : Bool) : (s.setRxie b).cmdOut = s.cmdOut := rfl
@[simp] theorem State.setRxie_txOut (b : Bool) : (s.setRxie b).txOut = s.txOut := rfl
@[simp] theorem State.setRxie_dropLog (b : Bool) : (s.setRxie b).dropLog = s.dropLog := rfl
@[simp] theorem State.setRxie_agent (b : Bool) : (s.setRxie b).agent = s.agent := rfl
@[simp] theorem State.setRxie_rsp (b : Bool) : (s.setRxie b).rsp = s.rsp := rfl
@[simp] theorem State.setRxie_input (b : Bool) : (s.setRxie b).input = s.input := rfl

/-! setTxie -/

@[simp] theorem State.setTxie_cfg (b : Bool) : (s.setTxie b).cfg = s.cfg := rfl
@[simp] theorem State.setTxie_storage (b : Bool) : (s.setTxie b).storage = s.storage := rfl
@[simp] theorem State.setTxie_length (b : Bool) : (s.setTxie b).length = s.length := rfl
@[simp] theorem State.setTxie_cursor (b : Bool) : (s.setTxie b).cursor = s.cursor := rfl
@[simp] theorem State.setTxie_mode (b : Bool) : (s.setTxie b).mode = s.mode := rfl
@[simp] theorem State.setTxie_rxie (b : Bool) : (s.setTxie b).rxie = s.rxie := rfl
@[simp] theorem State.setTxie_txie (b : Bool) : (s.setTxie b).txie = b := rfl
@[simp] theorem State.setTxie_cmdOut (b : Bool) : (s.setTxie b).cmdOut = s.cmdOut := rfl
@[simp] theorem State.setTxie_txOut (b : Bool) : (s.setTxie b).txOut = s.txOut := rfl
@[simp] theorem State.setTxie_dropLog (b : Bool) : (s.setTxie b).dropLog = s.dropLog := rfl
@[simp] theorem State.setTxie_agent (b : Bool) : (s.setTxie b).agent = s.agent := rfl
@[simp] theorem State.setTxie_rsp (b : Bool) : (s.setTxie b).rsp = s.rsp := rfl
@[simp] theorem State.setTxie_input (b : Bool) : (s.setTxie b).input = s.input := rfl

/-! emit -/

@[simp] theorem State.emit_cfg (c : Command) : (s.emit c).cfg = s.cfg := rfl
@[simp] theorem State.emit_storage (c : Command) : (s.emit c).storage = s.storage := rfl
@[simp] theorem State.emit_length (c : Command) : (s.emit c).length = s.length := rfl
@[simp] theorem State.emit_cursor (c : Command) : (s.emit c).cursor = s.cursor := rfl
@[simp] theorem State.emit_mode (c : Command) : (s.emit c).mode = s.mode := rfl
@[simp] theorem State.emit_rxie (c : Command) : (s.emit c).rxie = s.rxie := rfl
@[simp] theorem State.emit_txie (c : Command) : (s.emit c).txie = s.txie := rfl
@[simp] theorem State.emit_cmdOut (c : Command) : (s.emit c).cmdOut = s.cmdOut ++ [c] := rfl
@[simp] theorem State.emit_txOut (c : Command) : (s.emit c).txOut = s.txOut := rfl
@[simp] theorem State.emit_dropLog (c : Command) : (s.emit c).dropLog = s.dropLog := rfl
@[simp] theorem State.emit_agent (c : Command) : (s.emit c).agent = s.agent := rfl
@[simp] theorem State.emit_rsp (c : Command) : (s.emit c).rsp = s.rsp := rfl
@[simp] theorem State.emit_input (c : Command) : (s.emit c).input = s.input := rfl

/-! logTx -/

@[simp] theorem State.logTx_cfg (b : Byte) : (s.logTx b).cfg = s.cfg := rfl
@[simp] theorem State.logTx_storage (b : Byte) : (s.logTx b).storage = s.storage := rfl
@[simp] theorem State.logTx_length (b : Byte) : (s.logTx b).length = s.length := rfl
@[simp] theorem State.logTx_cursor (b : Byte) : (s.logTx b).cursor = s.cursor := rfl
@[simp] theorem State.logTx_mode (b : Byte) : (s.logTx b).mode = s.mode := rfl
@[simp] theorem State.logTx_rxie (b : Byte) : (s.logTx b).rxie = s.rxie := rfl
@[simp] theorem State.logTx_txie (b : Byte) : (s.logTx b).txie = s.txie := rfl
@[simp] theorem State.logTx_cmdOut (b : Byte) : (s.logTx b).cmdOut = s.cmdOut := rfl
@[simp] theorem State.logTx_txOut (b : Byte) : (s.logTx b).txOut = s.txOut ++ [b] := rfl
@[simp] theorem State.logTx_dropLog (b : Byte) : (s.logTx b).dropLog = s.dropLog := rfl
@[simp] theorem State.logTx_agent (b : Byte) : (s.logTx b).agent = s.agent := rfl
@[simp] theorem State.logTx_rsp (b : Byte) : (s.logTx b).rsp = s.rsp := rfl
@[simp] theorem State.logTx_input (b : Byte) : (s.logTx b).input = s.input := rfl

/-! logDrop -/

@[simp] theorem State.logDrop_cfg (b : Byte) : (s.logDrop b).cfg = s.cfg := rfl
@[simp] theorem State.logDrop_storage (b : Byte) : (s.logDrop b).storage = s.storage := rfl
@[simp] theorem State.logDrop_length (b : Byte) : (s.logDrop b).length = s.length := rfl
@[simp] theorem State.logDrop_cursor (b : Byte) : (s.logDrop b).cursor = s.cursor := rfl
@[simp] theorem State.logDrop_mode (b : Byte) : (s.logDrop b).mode = s.mode := rfl
@[simp] theorem State.logDrop_rxie (b : Byte) : (s.logDrop b).rxie = s.rxie := rfl
@[simp] theorem State.logDrop_txie (b : Byte) : (s.logDrop b).txie = s.txie := rfl
@[simp] theorem State.logDrop_cmdOut (b : Byte) : (s.logDrop b).cmdOut = s.cmdOut := rfl
@[simp] theorem State.logDrop_txOut (b : Byte) : (s.logDrop b).txOut = s.txOut := rfl
@[simp] theorem State.logDrop_dropLog (b : Byte) : (s.logDrop b).dropLog = s.dropLog ++ [b] := rfl
@[simp] theorem State.logDrop_agent (b : Byte) : (s.logDrop b).agent = s.agent := rfl
@[simp] theorem State.logDrop_rsp (b : Byte) : (s.logDrop b).rsp = s.rsp := rfl
@[simp] theorem State.logDrop_input (b : Byte) : (s.logDrop b).input = s.input := rfl

/-! setAgent -/

@[simp] theorem State.setAgent_cfg (a : Agent) : (s.setAgent a).cfg = s.cfg := rfl
@[simp] theorem State.setAgent_storage (a : Agent) : (s.setAgent a).storage = s.storage := rfl
@[simp] theorem State.setAgent_length (a : Agent) : (s.setAgent a).length = s.length := rfl
@[simp] theorem State.setAgent_cursor (a : Agent) : (s.setAgent a).cursor = s.cursor := rfl
@[simp] theorem State.setAgent_mode (a : Agent) : (s.setAgent a).mode = s.mode := rfl
@[simp] theorem State.setAgent_rxie (a : Agent) : (s.setAgent a).rxie = s.rxie := rfl
@[simp] theorem State.setAgent_txie (a : Agent) : (s.setAgent a).txie = s.txie := rfl
@[simp] theorem State.setAgent_cmdOut (a : Agent) : (s.setAgent a).cmdOut = s.cmdOut := rfl
@[simp] theorem State.setAgent_txOut (a : Agent) : (s.setAgent a).txOut = s.txOut := rfl
@[simp] theorem State.setAgent_dropLog (a : Agent) : (s.setAgent a).dropLog = s.dropLog := rfl
@[simp] theorem State.setAgent_agent (a : Agent) : (s.setAgent a).agent = a := rfl
@[simp] theorem State.setAgent_rsp (a : Agent) : (s.setAgent a).rsp = s.rsp := rfl
@[simp] theorem State.setAgent_input (a : Agent) : (s.setAgent a).input = s.input := rfl

/-! respond -/

@[simp] theorem State.respond_cfg (r : Option RspWord) : (s.respond r).cfg = s.cfg := rfl
@[simp] theorem State.respond_storage (r : Option RspWord) : (s.respond r).storage = s.storage := rfl
@[simp] theorem State.respond_length (r : Option RspWord) : (s.respond r).length = s.length := rfl
@[simp] theorem State.respond_cursor (r : Option RspWord) : (s.respond r).cursor = s.cursor := rfl
@[simp] theorem State.respond_mode (r : Option RspWord) : (s.respond r).mode = s.mode := rfl
@[simp] theorem State.respond_rxie (r : Option RspWord) : (s.respond r).rxie = s.rxie := rfl
@[simp] theorem State.respond_txie (r : Option RspWord) : (s.respond r).txie = s.txie := rfl
@[simp] theorem State.respond_cmdOut (r : Option RspWord) : (s.respond r).cmdOut = s.cmdOut := rfl
@[simp] theorem State.respond_txOut (r : Option RspWord) : (s.respond r).txOut = s.txOut := rfl
@[simp] theorem State.respond_dropLog (r : Option RspWord) : (s.respond r).dropLog = s.dropLog := rfl
@[simp] theorem State.respond_agent (r : Option RspWord) : (s.respond r).agent = s.agent := rfl
@[simp] theorem State.respond_rsp (r : Option RspWord) : (s.respond r).rsp = r := rfl
@[simp] theorem State.respond_input (r : Option RspWord) : (s.respond r).input = s.input := rfl

/-! setInput -/

@[simp] theorem State.setInput_cfg (l : List Transaction) : (s.setInput l).cfg = s.cfg := rfl
@[simp] theorem State.setInput_storage (l : List Transaction) : (s.setInput l).storage = s.storage := rfl
@[simp] theorem State.setInput_length (l : List Transaction) : (s.setInput l).length = s.length := rfl
@[simp] theorem State.setInput_cursor (l : List Transaction) : (s.setInput l).cursor = s.cursor := rfl
@[simp] theorem State.setInput_mode (l : List Transaction) : (s.setInput l).mode = s.mode := rfl
@[simp] theorem State.setInput_rxie (l : List Transaction) : (s.setInput l).rxie = s.rxie := rfl
@[simp] theorem State.setInput_txie (l : List Transaction) : (s.setInput l).txie = s.txie := rfl
@[simp] theorem State.setInput_cmdOut (l : List Transaction) : (s.setInput l).cmdOut = s.cmdOut := rfl
@[simp] theorem State.setInput_txOut (l : List Transaction) : (s.setInput l).txOut = s.txOut := rfl
@[simp] theorem State.setInput_dropLog (l : List Transaction) : (s.setInput l).dropLog = s.dropLog := rfl
@[simp] theorem State.setInput_agent (l : List Transaction) : (s.setInput l).agent = s.agent := rfl
@[simp] theorem State.setInput_rsp (l : List Transaction) : (s.setInput l).rsp = s.rsp := rfl
@[simp] theorem State.setInput_input (l : List Transaction) : (s.setInput l).input = l := rfl

/-! The words passed on PER: only `emit` adds one. -/

@[simp] theorem State.setStorage_perOut (m : Memory) : (s.setStorage m).perOut = s.perOut := rfl
@[simp] theorem State.setLength_perOut (n : Idx) : (s.setLength n).perOut = s.perOut := rfl
@[simp] theorem State.setCursor_perOut (n : Idx) : (s.setCursor n).perOut = s.perOut := rfl
@[simp] theorem State.setMode_perOut (m : Mode) : (s.setMode m).perOut = s.perOut := rfl
@[simp] theorem State.setRxie_perOut (b : Bool) : (s.setRxie b).perOut = s.perOut := rfl
@[simp] theorem State.setTxie_perOut (b : Bool) : (s.setTxie b).perOut = s.perOut := rfl
@[simp] theorem State.logTx_perOut (b : Byte) : (s.logTx b).perOut = s.perOut := rfl
@[simp] theorem State.logDrop_perOut (b : Byte) : (s.logDrop b).perOut = s.perOut := rfl
@[simp] theorem State.setAgent_perOut (a : Agent) : (s.setAgent a).perOut = s.perOut := rfl
@[simp] theorem State.respond_perOut (r : Option RspWord) : (s.respond r).perOut = s.perOut := rfl
@[simp] theorem State.setInput_perOut (l : List Transaction) : (s.setInput l).perOut = s.perOut := rfl
@[simp] theorem State.emit_perOut (c : Command) : (s.emit c).perOut = s.perOut ++ [c.onPer] := List.map_append

/-- Commands at the end of `cmd_out` are their words at the end of what PER has passed. -/
theorem State.perOut_append {s t : State} {cs : List Command} (h : t.cmdOut = s.cmdOut ++ cs) :
    t.perOut = s.perOut ++ cs.map Command.onPer := by
  simp only [State.perOut, h, List.map_append]

end Sys2Proof.Machine
end

