-- ==== Sys2Proof/Laws/Ops.lean ====
section
/-! SUPPORT. For each shared operation, once, everything it can do. -/

namespace Sys2Proof.Machine

@[simp] theorem andThen_next {α β : Type} (a : α) (f : α → Res β) : andThen (.next a) f = f a := rfl
@[simp] theorem andThen_fault {α β : Type} (r : Fault) (f : α → Res β) :
    andThen (.fault r : Res α) f = .fault r := rfl
@[simp] theorem andThen_refused {α β : Type} (r : Refusal) (f : α → Res β) :
    andThen (.refused r : Res α) f = .refused r := rfl

/-- A sequence answers a next state only through a next state of its first part. -/
theorem andThen_eq_next {α β : Type} {o : Res α} {f : α → Res β} {b : β} (h : andThen o f = .next b) :
    ∃ a, o = .next a ∧ f a = .next b := by
  cases o with
  | next a => exact ⟨a, rfl, h⟩
  | fault r => cases h
  | refused r => cases h

theorem Ops.cell_setStorage_store (s : State) (a k : Nat) (b : Byte) :
    Ops.cell (s.setStorage (s.storage.store a b)) k = if k = a then b else Ops.cell s k := by
  simp only [Ops.cell, State.setStorage_storage, Memory.find_store]
  split <;> rfl

/-- The cells depend on storage alone. -/
theorem Ops.cell_congr {s t : State} (h : t.storage = s.storage) (a : Nat) : Ops.cell t a = Ops.cell s a := by
  simp [Ops.cell, h]

theorem Ops.memRead_of_exists {a : Nat} {s : State} (h : a < s.cfg.capacity.toNat) :
    Ops.memRead a s = .next (Ops.cell s a) := by
  simp [Ops.memRead, Ops.exists, h]

theorem Ops.memWrite_of_exists {a : Nat} {s : State} (b : Byte) (h : a < s.cfg.capacity.toNat) :
    Ops.memWrite a b s = .next (s.setStorage (s.storage.store a b)) := by
  simp [Ops.memWrite, Ops.exists, h]

theorem Ops.bufWrite_of_room {s : State} (b : Byte) (h : s.length < s.cfg.capacity) :
    Ops.bufWrite b s =
      .next (.success, (s.setStorage (s.storage.store s.length.toNat b)).setLength (s.length + 1)) := by
  simp [Ops.bufWrite, writeStatus, h, address, Ops.memWrite_of_exists b (s := s) (BitVec.lt_def.mp h)]

theorem Ops.bufWrite_of_full {s : State} (b : Byte) (h : ¬ s.length < s.cfg.capacity) :
    Ops.bufWrite b s = .next (.bufferFull, s) := by
  simp [Ops.bufWrite, writeStatus, h]

theorem Ops.bufRead_in_range {s : State} {i : Idx} (h : i < s.length) (hc : i < s.cfg.capacity) :
    Ops.bufRead i s = .next (.success, Ops.cell s i.toNat) := by
  simp [Ops.bufRead, readStatus, h, address, Ops.memRead_of_exists (s := s) (BitVec.lt_def.mp hc)]

theorem Ops.bufRead_out_of_range {s : State} {i : Idx} (h : ¬ i < s.length) :
    Ops.bufRead i s = .next (.outOfRange, 0) := by
  simp [Ops.bufRead, readStatus, h]

/-- A READ of a valid index whose cell does not exist, which needs `length` above CAPACITY, faults. -/
theorem Ops.bufRead_outside {s : State} {i : Idx} (h : i < s.length) (hc : ¬ i < s.cfg.capacity) :
    Ops.bufRead i s = .fault (.outsideStorage i.toNat) := by
  have hc' : ¬ i.toNat < s.cfg.capacity.toNat := fun h' => hc (BitVec.lt_def.mpr h')
  simp [Ops.bufRead, readStatus, h, address, Ops.memRead, Ops.exists, hc']

/-- HWRD yields a byte in one case only, and this is all it changes. -/
theorem Ops.hwrd_eq_next {s t : State} {b : Byte} (h : Ops.hwrd s = .next (b, t)) :
    s.agent = .rxh b false ∧ t = (s.emit .hwrd).setAgent (.rxh b true) := by
  unfold Ops.hwrd at h
  split at h <;> simp at h
  obtain ⟨rfl, rfl⟩ := h
  exact ⟨‹_›, rfl⟩

theorem Ops.hwrd_of_rxh {s : State} {d : Byte} (h : s.agent = .rxh d false) :
    Ops.hwrd s = .next (d, (s.emit .hwrd).setAgent (.rxh d true)) := by
  simp [Ops.hwrd, h]

/-- HWWR goes through in one case only, and this is all it changes. -/
theorem Ops.hwwr_eq_next {s t : State} {b : Byte} (h : Ops.hwwr b s = .next t) :
    s.agent = .txh false ∧ t = ((s.emit (.hwwr b)).logTx b).setAgent (.txh true) := by
  unfold Ops.hwwr at h
  split at h <;> simp at h
  exact ⟨‹_›, h.symm⟩

theorem Ops.hwwr_of_txh {s : State} (b : Byte) (h : s.agent = .txh false) :
    Ops.hwwr b s = .next (((s.emit (.hwwr b)).logTx b).setAgent (.txh true)) := by
  simp [Ops.hwwr, h]

/-! The composed updates, written out. -/

theorem Ops.overflow_eq (b : Byte) (s : State) :
    Ops.overflow b s =
      { s with rxie := false, txie := true, cursor := 0, mode := .transmitting,
               cmdOut := s.cmdOut ++ [.disrx] ++ [.entx], dropLog := s.dropLog ++ [b] } := rfl

theorem Ops.drainComplete_eq (s : State) :
    Ops.drainComplete s =
      { s with length := 0, rxie := true, txie := false, mode := .receiving,
               cmdOut := s.cmdOut ++ [.distx] ++ [.enrx] } := rfl

theorem Ops.leaveHandler_eq (s : State) : Ops.leaveHandler s = { s with agent := .idle, rsp := none } := rfl

end Sys2Proof.Machine
end

