-- ==== Sys2Proof/Laws/Exec.lean ====
section
/-! SUPPORT. What an operation can do, said once for each port: if `exec` answers a next state, which operation it was,
what held before, and the next state as one update of the state before. -/

namespace Sys2Proof.Machine

/-- The five ways an event completes (41_state_machine.md R80, R82 to R86). -/
theorem exec_ev_eq_next {i : Instr} {s t : State} (hp : i.port = .ev) (h : exec i s = .next t) : s.agent = .idle ∧
    ((i = .init ∧ s.rxie = false ∧ s.txie = false ∧
        t = { s with length := 0, mode := .receiving, rxie := true, cmdOut := s.cmdOut ++ [.enrx], rsp := none }) ∨
     (∃ d, i = .rxc d ∧ s.rxie = true ∧ s.length < s.cfg.capacity ∧
        t = { s with storage := s.storage.store s.length.toNat d, length := s.length + 1,
                     cmdOut := s.cmdOut ++ [.hwrd], rsp := none }) ∨
     (∃ d, i = .rxc d ∧ s.rxie = true ∧ ¬ s.length < s.cfg.capacity ∧
        t = { s with rxie := false, txie := true, cursor := 0, mode := .transmitting,
                     cmdOut := s.cmdOut ++ [.hwrd, .disrx, .entx], dropLog := s.dropLog ++ [d], rsp := none }) ∨
     (i = .txr ∧ s.txie = true ∧ s.cursor < s.length ∧ s.cursor < s.cfg.capacity ∧
        t = { s with cursor := s.cursor + 1, txOut := s.txOut ++ [Ops.cell s s.cursor.toNat],
                     cmdOut := s.cmdOut ++ [.hwwr (Ops.cell s s.cursor.toNat)], rsp := none }) ∨
     (i = .txr ∧ s.txie = true ∧ ¬ s.cursor < s.length ∧
        t = { s with length := 0, txie := false, rxie := true, mode := .receiving,
                     cmdOut := s.cmdOut ++ [.distx, .enrx], rsp := none })) := by
  have hidle : s.agent = .idle := by
    refine Classical.byContradiction fun hc => ?_
    cases i <;> simp [Instr.port] at hp <;> simp [exec, execInit, execRxc, execTxr, hc] at h
  refine ⟨hidle, ?_⟩
  cases i <;> simp [Instr.port] at hp
  case init =>
    by_cases h1 : s.rxie = false <;> by_cases h2 : s.txie = false
    · refine .inl ⟨rfl, h1, h2, ?_⟩
      obtain ⟨⟩ := s
      simp only at hidle h1 h2
      subst hidle h1 h2
      injection h with h
      exact h.symm
    all_goals simp [exec, execInit, *] at h
  case rxc d =>
    by_cases h1 : s.rxie = true
    · simp only [exec, execRxc, hidle, h1, receiveHandler, ne_eq, not_true_eq_false, if_false, if_true] at h
      rw [Ops.hwrd_of_rxh (d := d) rfl, andThen_next] at h
      dsimp only at h
      by_cases hl : s.length < s.cfg.capacity
      · rw [Ops.bufWrite_of_room
          (s := State.setAgent (.rxh d true) (State.emit .hwrd (Ops.enterHandler (.rxh d false) s))) d hl] at h
        injection h with h
        refine .inr (.inl ⟨d, rfl, h1, hl, ?_⟩)
        rw [← h]
        simp [Ops.enterHandler, Ops.leaveHandler, State.setAgent, State.respond, State.setLength, State.setStorage,
          State.emit, hidle]
      · rw [Ops.bufWrite_of_full
          (s := State.setAgent (.rxh d true) (State.emit .hwrd (Ops.enterHandler (.rxh d false) s))) d hl] at h
        injection h with h
        refine .inr (.inr (.inl ⟨d, rfl, h1, hl, ?_⟩))
        rw [← h]
        simp [Ops.enterHandler, Ops.leaveHandler, State.setAgent, State.respond, Ops.overflow_eq, State.emit, hidle]
    · simp [exec, execRxc, hidle, h1] at h
  case txr =>
    by_cases h1 : s.txie = true
    · simp only [exec, execTxr, hidle, h1, transmitHandler, ne_eq, not_true_eq_false, if_false, if_true] at h
      by_cases hl : s.cursor < s.length
      · by_cases hc : s.cursor < s.cfg.capacity
        · rw [Ops.bufRead_in_range (by exact hl) (by exact hc), andThen_next, if_pos rfl, Ops.hwwr_of_txh _ rfl] at h
          injection h with h
          refine .inr (.inr (.inr (.inl ⟨rfl, h1, hl, hc, ?_⟩)))
          rw [← h]
          simp [Ops.enterHandler, Ops.leaveHandler, State.setAgent, State.respond, State.setCursor, State.emit,
            State.logTx, hidle, Ops.cell]
        · rw [Ops.bufRead_outside (by exact hl) (by exact hc)] at h
          cases h
      · rw [Ops.bufRead_out_of_range (by exact hl), andThen_next, if_neg (by simp)] at h
        injection h with h
        refine .inr (.inr (.inr (.inr ⟨rfl, h1, hl, ?_⟩)))
        rw [← h]
        simp [Ops.enterHandler, Ops.leaveHandler, State.setAgent, State.respond, Ops.drainComplete_eq, hidle]
    · simp [exec, execTxr, hidle, h1] at h

/-- The five ways a buffer operation completes (40_fixedbuffer.md R70 to R72). -/
theorem exec_buf_eq_next {i : Instr} {s t : State} (hp : i.port = .buf) (h : exec i s = .next t) :
    (i = .clear ∧ t = { s with length := 0, rsp := some 0x000 }) ∨
    (∃ b, i = .write b ∧ s.length < s.cfg.capacity ∧
      t = { s with storage := s.storage.store s.length.toNat b, length := s.length + 1, rsp := some 0x000 }) ∨
    (∃ b, i = .write b ∧ ¬ s.length < s.cfg.capacity ∧ t = { s with rsp := some 0x100 }) ∨
    (∃ k, i = .read k ∧ k < s.length ∧ k < s.cfg.capacity ∧
      t = { s with rsp := some (0b00#2 ++ Ops.cell s k.toNat) }) ∨
    (∃ k, i = .read k ∧ ¬ k < s.length ∧ t = { s with rsp := some 0x200 }) := by
  cases i <;> simp [Instr.port] at hp
  case clear =>
    injection h with h
    exact .inl ⟨rfl, h.symm⟩
  case write b =>
    by_cases hl : s.length < s.cfg.capacity
    · simp only [exec, execWrite, Ops.bufWrite_of_room b hl, andThen_next] at h
      injection h with h
      exact .inr (.inl ⟨b, rfl, hl, h.symm⟩)
    · simp only [exec, execWrite, Ops.bufWrite_of_full b hl, andThen_next] at h
      injection h with h
      exact .inr (.inr (.inl ⟨b, rfl, hl, h.symm⟩))
  case read k =>
    by_cases hl : k < s.length
    · by_cases hc : k < s.cfg.capacity
      · simp only [exec, execRead, Ops.bufRead_in_range hl hc, andThen_next] at h
        injection h with h
        exact .inr (.inr (.inr (.inl ⟨k, rfl, hl, hc, h.symm⟩)))
      · simp only [exec, execRead, Ops.bufRead_outside hl hc, andThen_fault] at h
        cases h
    · simp only [exec, execRead, Ops.bufRead_out_of_range hl, andThen_next] at h
      injection h with h
      exact .inr (.inr (.inr (.inr ⟨k, rfl, hl, h.symm⟩)))

/-- The six ways a peripheral command completes (42_peripheral_primitives.md R90 to R95). -/
theorem exec_per_eq_next {i : Instr} {s t : State} (hp : i.port = .per) (h : exec i s = .next t) :
    (i = .hwrd ∧ ∃ d, s.agent = .rxh d false ∧
      t = { s with cmdOut := s.cmdOut ++ [.hwrd], agent := .rxh d true, rsp := some (0b00#2 ++ d) }) ∨
    (∃ b, i = .hwwr b ∧ s.agent = .txh false ∧
      t = { s with cmdOut := s.cmdOut ++ [.hwwr b], txOut := s.txOut ++ [b], agent := .txh true, rsp := none }) ∨
    (i = .enrx ∧ t = { s with cmdOut := s.cmdOut ++ [.enrx], rxie := true, rsp := none }) ∨
    (i = .disrx ∧ t = { s with cmdOut := s.cmdOut ++ [.disrx], rxie := false, rsp := none }) ∨
    (i = .entx ∧ t = { s with cmdOut := s.cmdOut ++ [.entx], txie := true, rsp := none }) ∨
    (i = .distx ∧ t = { s with cmdOut := s.cmdOut ++ [.distx], txie := false, rsp := none }) := by
  cases i <;> simp [Instr.port] at hp
  case hwrd =>
    obtain ⟨⟨b, u⟩, h1, h2⟩ := andThen_eq_next (show andThen _ _ = _ from h)
    obtain ⟨ha, rfl⟩ := Ops.hwrd_eq_next h1
    injection h2 with h2
    exact .inl ⟨rfl, b, ha, h2.symm⟩
  case hwwr b =>
    obtain ⟨u, h1, h2⟩ := andThen_eq_next (show andThen _ _ = _ from h)
    obtain ⟨ha, rfl⟩ := Ops.hwwr_eq_next h1
    injection h2 with h2
    exact .inr (.inl ⟨b, rfl, ha, h2.symm⟩)
  case enrx => injection h with h; exact .inr (.inr (.inl ⟨rfl, h.symm⟩))
  case disrx => injection h with h; exact .inr (.inr (.inr (.inl ⟨rfl, h.symm⟩)))
  case entx => injection h with h; exact .inr (.inr (.inr (.inr (.inl ⟨rfl, h.symm⟩))))
  case distx => injection h with h; exact .inr (.inr (.inr (.inr (.inr ⟨rfl, h.symm⟩))))

end Sys2Proof.Machine
end

