-- ==== Sys2Proof/Laws/PerInstr.lean ====
section
/-! SUPPORT. Facts about every instruction as syntax, one lemma for each constructor: the word of an operation is the
word of its row of the opcode map, `(w & mask) == match` (30_encoding.md R53), and its format says which bits the row
fixes (R51, R52). -/

namespace Sys2Proof.Laws

/-- The word of `i` matches the row of `i`. -/
def TableRow.Statement (i : Instr) : Prop := encode i &&& i.mask = i.matchBits

theorem TableRow.clear : TableRow.Statement .clear := rfl
theorem TableRow.write (b : Byte) : TableRow.Statement (.write b) := append_mask_op 0x1 b
theorem TableRow.read (i : Idx) : TableRow.Statement (.read i) := append_mask_op 0x2 i
theorem TableRow.init : TableRow.Statement .init := rfl
theorem TableRow.rxc (d : Byte) : TableRow.Statement (.rxc d) := append_mask_op 0x5 d
theorem TableRow.txr : TableRow.Statement .txr := rfl
theorem TableRow.hwrd : TableRow.Statement .hwrd := rfl
theorem TableRow.hwwr (b : Byte) : TableRow.Statement (.hwwr b) := append_mask_op 0x9 b
theorem TableRow.enrx : TableRow.Statement .enrx := rfl
theorem TableRow.disrx : TableRow.Statement .disrx := rfl
theorem TableRow.entx : TableRow.Statement .entx := rfl
theorem TableRow.distx : TableRow.Statement .distx := rfl

/-- Format Z fixes all twelve bits and has a zero `arg`; formats D and X fix the opcode alone. -/
def FormatOperand.Statement (i : Instr) : Prop :=
  (Machine.formatOf i = .Z → i.mask = 0xFFF ∧ i.arg = 0) ∧ (Machine.formatOf i ≠ .Z → i.mask = 0xF00)

theorem FormatOperand.clear : FormatOperand.Statement .clear := ⟨fun _ => ⟨rfl, rfl⟩, fun h => absurd rfl h⟩
theorem FormatOperand.write (b : Byte) : FormatOperand.Statement (.write b) :=
  ⟨(fun h => by cases h), fun _ => rfl⟩
theorem FormatOperand.read (i : Idx) : FormatOperand.Statement (.read i) :=
  ⟨(fun h => by cases h), fun _ => rfl⟩
theorem FormatOperand.init : FormatOperand.Statement .init := ⟨fun _ => ⟨rfl, rfl⟩, fun h => absurd rfl h⟩
theorem FormatOperand.rxc (d : Byte) : FormatOperand.Statement (.rxc d) :=
  ⟨(fun h => by cases h), fun _ => rfl⟩
theorem FormatOperand.txr : FormatOperand.Statement .txr := ⟨fun _ => ⟨rfl, rfl⟩, fun h => absurd rfl h⟩
theorem FormatOperand.hwrd : FormatOperand.Statement .hwrd := ⟨fun _ => ⟨rfl, rfl⟩, fun h => absurd rfl h⟩
theorem FormatOperand.hwwr (b : Byte) : FormatOperand.Statement (.hwwr b) :=
  ⟨(fun h => by cases h), fun _ => rfl⟩
theorem FormatOperand.enrx : FormatOperand.Statement .enrx := ⟨fun _ => ⟨rfl, rfl⟩, fun h => absurd rfl h⟩
theorem FormatOperand.disrx : FormatOperand.Statement .disrx := ⟨fun _ => ⟨rfl, rfl⟩, fun h => absurd rfl h⟩
theorem FormatOperand.entx : FormatOperand.Statement .entx := ⟨fun _ => ⟨rfl, rfl⟩, fun h => absurd rfl h⟩
theorem FormatOperand.distx : FormatOperand.Statement .distx := ⟨fun _ => ⟨rfl, rfl⟩, fun h => absurd rfl h⟩

end Sys2Proof.Laws
end

