-- ==== Sys2Proof/Laws/Step.lean ====
section
/-! SUPPORT. What a step can do: the acceptance of a word, the step on it, and runs of several steps. -/

namespace Sys2Proof.Machine

/-- Acceptance depends on the configuration and on who runs, not on the other fields. -/
theorem accept_congr {s s' : State} (t : Transaction) (hc : s'.cfg = s.cfg) (ha : s'.agent = s.agent) :
    accept t s' = accept t s := by
  cases s
  cases s'
  cases hc
  cases ha
  rfl

/-- A word is accepted for one reason only. -/
theorem accept_eq_ok {t : Transaction} {s : State} {i : Instr} (h : accept t s = .ok i) :
    s.cfg.capacity ≠ 0 ∧ decode t.word = .instr i ∧ i.port = t.port ∧ portOpen t.port s = true := by
  unfold accept at h
  split at h
  · cases h
  · rename_i hc
    split at h
    · cases h
    · rename_i j hd
      split at h
      · rename_i hp
        split at h
        · rename_i ho
          cases h
          exact ⟨hc, hd, hp, ho⟩
        · cases h
      · cases h

/-- The step on the first word presented. -/
theorem step_cons {s : State} {t : Transaction} {rest : List Transaction} (h : s.input = t :: rest) :
    step s = match accept t s with
      | .error r => .refused r
      | .ok i => exec i { s with input := rest } := by
  simp only [step, takeTransaction, h]
  rfl

/-- A step that answers a next state idles, or runs an accepted word. -/
theorem step_eq_next {s u : State} (h : step s = .next u) :
    (s.input = [] ∧ u = s) ∨
    ∃ t rest i, s.input = t :: rest ∧ accept t s = .ok i ∧ exec i { s with input := rest } = .next u := by
  cases hin : s.input with
  | nil =>
    simp only [step, takeTransaction, hin, idleLoop] at h
    cases h
    exact .inl ⟨rfl, rfl⟩
  | cons t rest =>
    rw [step_cons hin] at h
    cases ha : accept t s with
    | error r => rw [ha] at h; cases h
    | ok i => rw [ha] at h; exact .inr ⟨t, rest, i, rfl, ha, h⟩

/-- Between steps at most EV (level M) or BUF (level B) is open. -/
theorem portOpen_idle {p : Port} {s : State} (ha : s.agent = .idle) (h : portOpen p s = true) :
    (p = .ev ∧ s.cfg.level = .M) ∨ (p = .buf ∧ s.cfg.level = .B) := by
  cases p <;> cases hl : s.cfg.level <;> simp [portOpen, hl, ha] at h <;> simp

/-- `k + 1` steps are one step and `k` more. -/
theorem run_succ (k : Nat) (s : State) :
    core.run (k + 1) s = match step s with
      | .next t => core.run k t
      | .fault f => .fault f
      | .refused r => .refused r := by
  simp only [Host.Core.run]
  cases h : step s <;> (have h' : core.step s = _ := h; rw [h'])

/-- A property every step keeps holds after a run. -/
theorem run_keeps {P : State → Prop} (hk : ∀ s t, P s → step s = .next t → P t) :
    ∀ (k : Nat) (s t : State), P s → core.run k s = .next t → P t := by
  intro k
  induction k with
  | zero =>
    intro s t hs h
    simp only [Host.Core.run] at h
    cases h
    exact hs
  | succ k ih =>
    intro s t hs h
    rw [run_succ] at h
    cases h1 : step s with
    | next u => rw [h1] at h; exact ih u t (hk s u hs h1) h
    | fault f => rw [h1] at h; cases h
    | refused r => rw [h1] at h; cases h

end Sys2Proof.Machine
end

