-- ==== Sys2Proof/Machine/Assembler.lean ====
section
/-! DEFINITION. The assembler syntax and the two pseudo-instructions (30_encoding.md R61, R62), on lines of characters. -/

namespace Sys2Proof.Machine

/-- The mnemonics (R53, R61): format Z takes no operand, formats D and X take one, RXS takes one or more bytes, DRAIN one
count. -/
inductive Keyword where
  | plain (i : Instr)
  | operand (f : Byte → Instr)
  | rxs
  | drain

/-- What a mnemonic stands for. -/
def keyword (w : List Char) : Option Keyword :=
  match w with
  | ['C', 'L', 'E', 'A', 'R'] => some (.plain .clear)
  | ['W', 'R', 'I', 'T', 'E'] => some (.operand .write)
  | ['R', 'E', 'A', 'D'] => some (.operand .read)
  | ['I', 'N', 'I', 'T'] => some (.plain .init)
  | ['R', 'X', 'C'] => some (.operand .rxc)
  | ['T', 'X', 'R'] => some (.plain .txr)
  | ['H', 'W', 'R', 'D'] => some (.plain .hwrd)
  | ['H', 'W', 'W', 'R'] => some (.operand .hwwr)
  | ['E', 'N', 'R', 'X'] => some (.plain .enrx)
  | ['D', 'I', 'S', 'R', 'X'] => some (.plain .disrx)
  | ['E', 'N', 'T', 'X'] => some (.plain .entx)
  | ['D', 'I', 'S', 'T', 'X'] => some (.plain .distx)
  | ['R', 'X', 'S'] => some .rxs
  | ['D', 'R', 'A', 'I', 'N'] => some .drain
  | _ => none

/-- The value of a digit. DESIGN CHOICE, unsafe: hexadecimal digits of either case (log entry 12). -/
def digit (c : Char) : Option Nat :=
  if '0' ≤ c ∧ c ≤ '9' then some (c.toNat - '0'.toNat)
  else if 'a' ≤ c ∧ c ≤ 'f' then some (c.toNat - 'a'.toNat + 10)
  else if 'A' ≤ c ∧ c ≤ 'F' then some (c.toNat - 'A'.toNat + 10)
  else none

/-- The digits of a number of base `b`, after those of value `v`. -/
def digits (b v : Nat) : List Char → Option Nat
  | [] => some v
  | c :: cs =>
    match digit c with
    | some d => if d < b then digits b (v * b + d) cs else none
    | none => none

/-- A number of base `b`, of one digit or more. -/
def numeral (b : Nat) (cs : List Char) : Option Nat :=
  match cs with
  | [] => none
  | c :: cs => digits b 0 (c :: cs)

/-- A number (00_scope.md R6: 0x hexadecimal, 0b binary, else decimal) or a character in quotes, its ASCII code (R61).
DESIGN CHOICE, unsafe: a quoted character that has no ASCII code (128 and above) stands for its Unicode code, which the
callers take as an operand where it fits; the spec speaks of ASCII only (log entry 12). -/
def number (w : List Char) : Option Nat :=
  match w with
  | ['\'', c, '\''] => some c.toNat
  | '0' :: 'x' :: cs => numeral 16 cs
  | '0' :: 'b' :: cs => numeral 2 cs
  | cs => numeral 10 cs

/-- A number that is a byte or an index, 0 to 255. -/
def byteOperand (w : List Char) : Option Byte :=
  match number w with
  | some n => if n < 256 then some (BitVec.ofNat 8 n) else none
  | none => none

/-- The bytes of a list of operands. -/
def byteOperands : List (List Char) → Option (List Byte)
  | [] => some []
  | w :: ws =>
    match byteOperand w, byteOperands ws with
    | some b, some bs => some (b :: bs)
    | _, _ => none

/-- The word read so far, if there is one. -/
def flush (w : List Char) : List (List Char) := if w.isEmpty then [] else [w.reverse]

/-- The words of a line, up to the comment: blanks and commas part them, a character in quotes is one word. DESIGN
CHOICE, unsafe: a blank, a tab and a comma part words alike on every line (log entry 12). -/
def lineWords (w : List Char) : List Char → List (List Char)
  | [] => flush w
  | '\'' :: c :: '\'' :: cs => flush w ++ ['\'', c, '\''] :: lineWords [] cs
  | c :: cs =>
    if c = ';' then flush w
    else if c = ' ' ∨ c = '\t' ∨ c = ',' then flush w ++ lineWords [] cs
    else lineWords (c :: w) cs

/-- The operations a line stands for: none for an empty line, a comment, or a line `-> rsp` that gives the response
expected (R61); several for a pseudo-instruction (R62). A line that is not of the syntax stands for nothing. -/
def assembleLine (line : List Char) : Option (List Instr) :=
  match lineWords [] line with
  | [] => some []
  | ['-', '>'] :: _ => some []
  | k :: operands =>
    match keyword k, operands with
    | some (.plain i), [] => some [i]
    | some (.operand f), [w] => (byteOperand w).map fun b => [f b]
    | some .rxs, w :: ws => (byteOperands (w :: ws)).map fun bs => bs.map .rxc
    | some .drain, [w] =>
      match number w with
      | some n => if n = 0 then none else some (List.replicate n .txr)
      | none => none
    | _, _ => none

/-- The operations of a program, one line after the other. -/
def assemble : List (List Char) → Option (List Instr)
  | [] => some []
  | l :: ls =>
    match assembleLine l, assemble ls with
    | some is, some js => some (is ++ js)
    | _, _ => none

end Sys2Proof.Machine
end

