-- ==== Sys2Proof/Tests/Slice0.lean ====
section
/-! SUPPORT. Tests whose expected values come from spec/95_test_vectors.md and the rules' own examples, the smoke test of
the well-formedness check, and a witness for the hypotheses of each obligation. -/

namespace Sys2Proof.Tests

open Sys2Proof.Machine

/-! Helpers: what an outcome holds, and small states. -/

def nextOf {α : Type} : Res α → Option α
  | .next a => some a
  | .fault _ => none
  | .refused _ => none

def refusalOf {α : Type} : Res α → Option Refusal
  | .next _ => none
  | .fault _ => none
  | .refused r => some r

/-- After reset at CAPACITY `c` and level `l`; the cursor is 77. -/
def fresh (c : BitVec 8) (l : Level) : State := State.resetWith { capacity := c, level := l } 0x77 []

/-- Receiving at CAPACITY `c` with `length` valid bytes in `m`. -/
def receiving (c : BitVec 8) (m : Memory) (length : Idx) : State :=
  { fresh c .M with storage := m, length := length, rxie := true, cmdOut := [.enrx] }

/-- Transmitting at CAPACITY `c`, its buffer `m` full, at `cursor`. -/
def transmitting (c : BitVec 8) (m : Memory) (cursor : Idx) : State :=
  { fresh c .M with storage := m, length := c, cursor := cursor, mode := .transmitting, txie := true }

/-- The bytes A, B, C, D at 0 to 3. -/
def abcd : Memory := [(0, 0x41), (1, 0x42), (2, 0x43), (3, 0x44)]

/-- `s` with the word presented next on a port. -/
def given (p : Port) (w : OpWord) (s : State) : State := { s with input := { port := p, word := w } :: s.input }

/-! Well-formedness: CAPACITY 0 is refused, 1 and 255 are not (00_scope.md R5, D24). -/

theorem test_capacity_zero_ill_formed : Config.wellFormed { capacity := 0 } = false := by decide
theorem test_capacity_bounds_well_formed :
    Config.wellFormed { capacity := 1 } = true ∧ Config.wellFormed { capacity := 255 } = true := by decide

/-! Decoding: words written out bit by bit from 30_encoding.md R50, R53, R63. -/

theorem test_decode_clear : decode 0b000000000000 = .instr .clear := by decide
theorem test_decode_write : decode 0b000101000001 = .instr (.write 0x41) := by decide
theorem test_decode_read : decode 0b001000000011 = .instr (.read 3) := by decide
theorem test_decode_init : decode 0b010000000000 = .instr .init := by decide
theorem test_decode_rxc : decode 0b010101000101 = .instr (.rxc 0x45) := by decide
theorem test_decode_txr : decode 0b011000000000 = .instr .txr := by decide
theorem test_decode_hwrd : decode 0b100000000000 = .instr .hwrd := by decide
theorem test_decode_hwwr : decode 0b100101000100 = .instr (.hwwr 0x44) := by decide
theorem test_decode_enrx : decode 0b101000000000 = .instr .enrx := by decide
theorem test_decode_disrx : decode 0b101100000000 = .instr .disrx := by decide
theorem test_decode_entx : decode 0b110000000000 = .instr .entx := by decide
theorem test_decode_distx : decode 0b110100000000 = .instr .distx := by decide
theorem test_decode_reserved :
    decode 0x3FF = .reserved (.opcode 3) ∧ decode 0xFFF = .reserved (.opcode 0xF) ∧
    decode 0x601 = .reserved (.argument 6 1) ∧ decode 0xA01 = .reserved (.argument 0xA 1) := by decide
theorem test_table_word_is_twelve_bits :
    decodeTableWord 16 0x2FF = some (.read 255) ∧ decodeTableWord 16 0x12FF = none := by decide

/-! Assembly (R61, R62; the lines of programs P1 and P3). -/

theorem test_assemble_write : assembleLine ['W', 'R', 'I', 'T', 'E', ' ', '\'', 'A', '\'', ' ', ';', '1'] =
    some [.write 0x41] := by decide
theorem test_assemble_rxs : assembleLine ['R', 'X', 'S', ' ', '0', 'x', 'F', 'F', ',', ' ', '8', '5'] =
    some [.rxc 0xFF, .rxc 0x55] := by decide
theorem test_assemble_drain : assembleLine ['D', 'R', 'A', 'I', 'N', ' ', '3'] = some [.txr, .txr, .txr] := by decide
theorem test_assemble_out_of_range : assembleLine ['R', 'E', 'A', 'D', ' ', '2', '5', '6'] = none := by decide

/-! The buffer, level B (95_test_vectors.md section 2.2). -/

/-- B13: CLEAR keeps the bytes. -/
theorem test_clear_keeps_cells :
    (nextOf (exec .clear { fresh 4 .B with storage := abcd, length := 4 })).map
      (fun t => (t.length, t.storage, t.rsp)) = some (0, abcd, some 0x000) := by decide
/-- B16: after CLEAR the next WRITE overwrites index 0. -/
theorem test_write_after_clear :
    (nextOf (exec (.write 0x5A) { fresh 4 .B with storage := abcd })).map
      (fun t => (t.length, t.storage, t.rsp)) =
      some (1, [(0, 0x5A), (1, 0x42), (2, 0x43), (3, 0x44)], some 0x000) := by decide
/-- B9: WRITE on a full buffer. -/
theorem test_write_full :
    (nextOf (exec (.write 0x45) { fresh 4 .B with storage := abcd, length := 4 })).map
      (fun t => (t.length, t.storage, t.rsp)) = some (4, abcd, some 0x100) := by decide
/-- B10: the last valid entry. -/
theorem test_read_last :
    (nextOf (exec (.read 3) { fresh 4 .B with storage := abcd, length := 4 })).map (fun t => t.rsp) =
      some (some 0x044) := by decide
/-- B15: the stale byte is not returned. -/
theorem test_read_stale :
    (nextOf (exec (.read 0) { fresh 4 .B with storage := abcd, length := 0 })).map (fun t => t.rsp) =
      some (some 0x200) := by decide

/-! The events, level M (section 2.3). -/

/-- E1. -/
theorem test_init :
    (nextOf (exec .init (fresh 4 .M))).map (fun t => (t.length, t.mode, t.rxie, t.txie, t.cmdOut)) =
      some (0, .receiving, true, false, [.enrx]) := by decide
/-- E13. -/
theorem test_init_again : refusalOf (exec .init (transmitting 4 abcd 2)) = some .alreadyInitialized := by decide
/-- E14: the stale cursor is not read, the stale cell is overwritten. -/
theorem test_rxc_after_drain :
    (nextOf (exec (.rxc 0x61) { receiving 4 abcd 0 with cursor := 4 })).map
      (fun t => (t.storage, t.length, t.cursor, t.mode)) =
      some ([(0, 0x61), (1, 0x42), (2, 0x43), (3, 0x44)], 1, 4, .receiving) := by decide
/-- E15. -/
theorem test_rxc_overflow :
    (nextOf (exec (.rxc 0x00) { receiving 4 abcd 4 with cursor := 4 })).map
      (fun t => (t.storage, t.length, t.cursor, t.mode, t.rxie, t.txie)) =
      some (abcd, 4, 0, .transmitting, false, true) := by decide
/-- E6. -/
theorem test_txr_last_byte :
    (nextOf (exec .txr (transmitting 4 abcd 3))).map (fun t => (t.cursor, t.mode, t.txOut, t.cmdOut)) =
      some (4, .transmitting, [0x44], [.hwwr 0x44]) := by decide
/-- E7. -/
theorem test_txr_ends_drain :
    (nextOf (exec .txr (transmitting 4 abcd 4))).map
      (fun t => (t.length, t.cursor, t.rxie, t.txie, t.cmdOut)) =
      some (0, 4, true, false, [.distx, .enrx]) := by decide

/-! The peripheral commands (section 2.4; 42_peripheral_primitives.md, the examples). -/

theorem test_hwrd_in_rxc :
    (nextOf (exec .hwrd { receiving 4 [] 0 with agent := .rxh 0x45 false })).map (fun t => (t.rsp, t.agent)) =
      some (some 0x045, .rxh 0x45 true) := by decide
theorem test_hwrd_twice :
    refusalOf (exec .hwrd { receiving 4 [] 0 with agent := .rxh 0x45 true }) = some .noReceivedByte := by decide
theorem test_hwwr_in_txr :
    (nextOf (exec (.hwwr 0x41) { transmitting 4 abcd 0 with agent := .txh false })).map
      (fun t => (t.txOut, t.cmdOut)) = some ([0x41], [.hwwr 0x41]) := by decide
theorem test_hwwr_twice :
    refusalOf (exec (.hwwr 0x41) { transmitting 4 abcd 0 with agent := .txh true }) = some .noTransmitReady := by
  decide
theorem test_enrx : (nextOf (exec .enrx (fresh 4 .M))).map (fun t => (t.rxie, t.txie)) = some (true, false) := by
  decide
theorem test_disrx :
    (nextOf (exec .disrx (receiving 4 [] 0))).map (fun t => (t.rxie, t.txie)) = some (false, false) := by decide
theorem test_entx : (nextOf (exec .entx (fresh 4 .M))).map (fun t => (t.rxie, t.txie)) = some (false, true) := by
  decide
theorem test_distx :
    (nextOf (exec .distx (transmitting 4 abcd 0))).map (fun t => (t.rxie, t.txie)) = some (false, false) := by decide

/-! The words that leave on PER (30_encoding.md R50, R61, R63). -/

theorem test_emitted_words :
    [Command.hwrd, .hwwr 0x44, .enrx, .disrx, .entx, .distx].map Command.word =
      [0x800, 0x944, 0xA00, 0xB00, 0xC00, 0xD00] := by decide
/-- E7 as words: the end of a drain passes DISTX, then ENRX. -/
theorem test_drain_end_words :
    (nextOf (exec .txr (transmitting 4 abcd 4))).map (fun t => t.perOut.map Transaction.word) =
      some [0xD00, 0xA00] := by decide

/-! The step: refusals of program P4 and of section 2.4, and the words that run after reset. -/

theorem test_step_reserved :
    refusalOf (step (given .ev 0x300 (receiving 4 [] 0))) = some (.reservedWord 0x300 (.opcode 3)) := by decide
theorem test_step_write_on_ev :
    refusalOf (step (given .ev 0x141 (receiving 4 [] 0))) = some (.wrongPort .ev 0x141) := by decide
theorem test_step_enrx_on_ev :
    refusalOf (step (given .ev 0xA00 (receiving 4 [] 0))) = some (.wrongPort .ev 0xA00) := by decide
theorem test_step_rxc_before_init :
    refusalOf (step (given .ev 0x541 (fresh 4 .M))) = some .receiveNotEnabled := by decide
theorem test_fetch_word_runs :
    (nextOf (step (State.reset.withFetchWord 16 0x545))).map (fun t => t.length) = some 1 := by decide
/-- A refused word leaves its mark and nothing else (30_encoding.md R58; P4, first word). -/
theorem test_run_marks_refusal :
    ({ state := fresh 4 .M, refused := [], steps := 0, fault := none : Run }).present { port := .ev, word := 0x600 } =
      { state := fresh 4 .M, refused := [{ port := .ev, word := 0x600 }], steps := 0, fault := none } := by decide

/-! States that meet the invariant. -/

theorem inv_fresh (l : Level) : (fresh 4 l).Inv :=
  ⟨rfl, ⟨List.Pairwise.nil, by simp [fresh, State.resetWith]⟩, by show (0 : BitVec 8) ≤ 4; decide,
    by intro a ha; exact absurd ha (by simp [fresh, State.resetWith]), rfl, .inl ⟨rfl, rfl, rfl⟩, (by intro h; cases h),
    fun _ => ⟨rfl, rfl, rfl⟩, rfl⟩

theorem inv_receiving : (receiving 4 abcd 4).Inv :=
  ⟨by decide, by decide, by decide, by decide, rfl, .inr (.inl ⟨rfl, rfl, rfl⟩), (by intro h; cases h),
    (by intro h; cases h), rfl⟩

theorem inv_transmitting (k : Idx) (h : k ≤ 4) : (transmitting 4 abcd k).Inv :=
  ⟨rfl, show (transmitting 4 abcd 0).StorageFits by decide, (by show (4 : BitVec 8) ≤ 4; decide),
    show ∀ a < (4 : BitVec 8).toNat, (abcd.find a).isSome = true by decide, rfl, .inr (.inr ⟨rfl, rfl, rfl⟩),
    fun _ => ⟨rfl, h⟩, (by intro h; cases h), rfl⟩

/-- The words presented are no part of the invariant. -/
theorem inv_given {s : State} (h : s.Inv) (p : Port) (w : OpWord) : (given p w s).Inv :=
  ⟨h.1, h.2, h.3, h.4, h.5, h.6, h.7, h.8, h.9⟩

/-! Witnesses: for each obligation with hypotheses, states and operands that meet all of them, at boundary values. -/

theorem witness_EncodeDecodeEveryWord : decode 0x2FF = .instr (.read 0xFF) := by decide

theorem witness_StepRunsPresentedOperation :
    (∃ (s : State) (t : Transaction) (rest : List Transaction) (i : Instr), s.input = t :: rest ∧ s.cfg.capacity ≠ 0 ∧ decode t.word = .instr i ∧ t.port = i.port ∧
      i.port = .ev ∧ s.cfg.level = .M) ∧
    (∃ (s : State) (t : Transaction) (rest : List Transaction) (i : Instr), s.input = t :: rest ∧ s.cfg.capacity ≠ 0 ∧ decode t.word = .instr i ∧ t.port = i.port ∧
      i.port = .buf ∧ s.cfg.level = .B) ∧
    (∃ (s : State) (t : Transaction) (rest : List Transaction) (i : Instr), s.input = t :: rest ∧ s.cfg.capacity ≠ 0 ∧ decode t.word = .instr i ∧ t.port = i.port ∧
      i.port = .per ∧ s.cfg.level = .M ∧ s.agent ≠ .idle) ∧
    ∃ s : State, s.input = [] :=
  ⟨⟨given .ev 0x400 (fresh 1 .M), ⟨.ev, 0x400⟩, [], .init, by decide⟩,
    ⟨given .buf 0x2FF (fresh 255 .B), ⟨.buf, 0x2FF⟩, [], .read 255, by decide⟩,
    ⟨given .per 0x800 { receiving 4 [] 0 with agent := .rxh 0xFF false }, ⟨.per, 0x800⟩, [], .hwrd, by decide⟩,
    ⟨fresh 4 .M, rfl⟩⟩

theorem witness_UnacceptedWordsHaveNoStep :
    (given .ev 0x400 (fresh 0 .M)).cfg.capacity = 0 ∧
    decode 0x001 = .reserved (.argument 0 1) ∧
    (decode 0x000 = .instr .clear ∧ Port.ev ≠ Instr.clear.port) ∧
    ((fresh 4 .M).cfg.level = .M ∧ (fresh 4 .M).agent = .idle ∧ Instr.clear.port ≠ .ev ∧ Instr.enrx.port ≠ .ev) ∧
    ((fresh 4 .B).cfg.level = .B ∧ Instr.init.port ≠ .buf ∧ Instr.distx.port ≠ .buf) := by decide

theorem witness_RefusalIsMarkedForTheRun : step ((fresh 4 .M).setInput [⟨.ev, 0x600⟩]) = .refused .transmitNotEnabled :=
  rfl

theorem witness_StepKeepsConfigurationAndTakesOneWord : ∃ t, step (given .ev 0x400 (fresh 4 .M)) = .next t := ⟨_, rfl⟩

theorem witness_WriteAppendsAtLength :
    (254 : Idx) = { fresh 255 .B with length := 254 }.length ∧
    { fresh 255 .B with length := 254 }.length < (fresh 255 .B).cfg.capacity ∧
    (fresh 1 .B).length < (fresh 1 .B).cfg.capacity := by decide

theorem witness_WriteOnFullChangesNothing :
    (fresh 255 .B).cfg.capacity ≤ { fresh 255 .B with length := 255 }.length := by decide

theorem witness_ReadAnswersByteOrOutOfRange :
    ((254 : Idx) < { fresh 255 .B with length := 255 }.length ∧
      { fresh 255 .B with length := 255 }.length ≤ (fresh 255 .B).cfg.capacity) ∧
    { fresh 255 .B with length := 255 }.length ≤ (255 : Idx) ∧ (fresh 1 .B).length ≤ (0 : Idx) := by decide

theorem witness_ReadBeyondCapacityFaults :
    ((4 : Idx) < { fresh 4 .B with length := 5 }.length ∧ (fresh 4 .B).cfg.capacity ≤ (4 : Idx)) ∧
    { transmitting 4 abcd 4 with length := 5 }.agent = .idle ∧ { transmitting 4 abcd 4 with length := 5 }.txie = true ∧
    (transmitting 4 abcd 4).cursor < { transmitting 4 abcd 4 with length := 5 }.length ∧
    (transmitting 4 abcd 4).cfg.capacity ≤ (transmitting 4 abcd 4).cursor := by decide

theorem witness_BufferFamilyFrame :
    (∃ t, exec .clear (fresh 4 .B) = .next t) ∧
    (∃ t, exec (.write 0xFF) { fresh 4 .B with storage := abcd, length := 4 } = .next t) ∧
    (∃ t, exec (.write 0) (fresh 1 .B) = .next t) ∧
    ∃ t, exec (.read 3) { fresh 4 .B with storage := abcd, length := 4 } = .next t :=
  ⟨⟨_, rfl⟩, ⟨_, rfl⟩, ⟨_, rfl⟩, ⟨_, rfl⟩⟩

theorem witness_BufferIsDeterministic :
    (fresh 1 .B).length < (fresh 1 .B).cfg.capacity ∧
    (∀ i ∈ [Instr.write 1, Instr.clear, Instr.write 2, Instr.read 0, Instr.write 3], i.port = .buf) ∧
    (0 : Idx).toNat < (entriesAfter 1 [Instr.write 1, Instr.clear, Instr.write 2, Instr.read 0, Instr.write 3]).length := by
  decide

/-- Two CLEARs, an overflow: CAPACITY 1 keeps the first byte written since the last CLEAR (40_fixedbuffer.md R71 (d)). -/
theorem test_entries_after_clear :
    entriesAfter 1 [Instr.write 1, Instr.clear, Instr.write 2, Instr.read 0, Instr.write 3] = [2] := by decide

theorem witness_BufferTestableProperties :
    ((fresh 4 .B).length = 0 ∧ [0x41#8, 0x42#8, 0x43#8, 0x44#8].length ≤ (fresh 4 .B).cfg.capacity.toNat) ∧
    { fresh 4 .B with length := 4 }.length = (fresh 4 .B).cfg.capacity ∧
    ∀ i ∈ [Instr.read 255, Instr.clear], i = .clear ∨ ∃ k, i = .read k :=
  ⟨by decide, by decide, by simp⟩

theorem witness_RepeatedOperationsAreIdempotent :
    (∃ t u, exec .clear (fresh 4 .B) = .next t ∧ exec .clear t = .next u) ∧
    (∃ t u, exec (.read 255) (fresh 4 .B) = .next t ∧ exec (.read 255) t = .next u) ∧
    (∃ t u, exec .enrx (fresh 4 .M) = .next t ∧ exec .enrx t = .next u) ∧
    (∃ t u, exec .disrx (fresh 4 .M) = .next t ∧ exec .disrx t = .next u) ∧
    (∃ t u, exec .entx (fresh 4 .M) = .next t ∧ exec .entx t = .next u) ∧
    ∃ t u, exec .distx (fresh 4 .M) = .next t ∧ exec .distx t = .next u :=
  ⟨⟨_, _, rfl, rfl⟩, ⟨_, _, rfl, rfl⟩, ⟨_, _, rfl, rfl⟩, ⟨_, _, rfl, rfl⟩, ⟨_, _, rfl, rfl⟩, ⟨_, _, rfl, rfl⟩⟩

theorem witness_ResponseOfEachOperation :
    (∃ t, exec (.write 0) (fresh 1 .B) = .next t) ∧
    (∃ t, exec (.read 0) { fresh 4 .B with storage := abcd, length := 1 } = .next t) ∧
    (∃ t, exec .hwrd { receiving 4 [] 0 with agent := .rxh 0xFF false } = .next t) ∧
    ∃ t, exec .txr (transmitting 4 abcd 4) = .next t :=
  ⟨⟨_, rfl⟩, ⟨_, rfl⟩, ⟨_, rfl⟩, ⟨_, rfl⟩⟩

theorem witness_InitStartsReceiving :
    (fresh 4 .M).agent = .idle ∧ (fresh 4 .M).rxie = false ∧ (fresh 4 .M).txie = false := by decide

theorem witness_InitRunsOnlyOnce :
    ((receiving 4 [] 0).agent = .idle ∧ (receiving 4 [] 0).rxie = true) ∧
    (transmitting 4 abcd 0).agent = .idle ∧ (transmitting 4 abcd 0).txie = true := by decide

theorem witness_RxcStoresByteWithRoom :
    (receiving 255 [] 254).agent = .idle ∧ (receiving 255 [] 254).rxie = true ∧
    (receiving 255 [] 254).length < (receiving 255 [] 254).cfg.capacity := by decide

theorem witness_RxcOverflowStartsDrain :
    (receiving 255 [] 255).agent = .idle ∧ (receiving 255 [] 255).rxie = true ∧
    (receiving 255 [] 255).length = (receiving 255 [] 255).cfg.capacity := by decide

theorem witness_TxrSendsByteAtCursor :
    let s := transmitting 255 [] 254
    s.agent = .idle ∧ s.txie = true ∧ s.cursor < s.length ∧ s.length ≤ s.cfg.capacity := by decide

theorem witness_TxrPastLastByteEndsDrain :
    ((transmitting 4 abcd 4).agent = .idle ∧ (transmitting 4 abcd 4).txie = true ∧
      (transmitting 4 abcd 4).length ≤ (transmitting 4 abcd 4).cursor) ∧ (transmitting 4 abcd 4).Inv :=
  ⟨by decide, inv_transmitting 4 (by decide)⟩

theorem witness_EventsAreDeliveredWhenEnabled :
    ((fresh 4 .M).agent = .idle ∧ (fresh 4 .M).rxie = false ∧ (fresh 4 .M).txie = false) ∧
    ((receiving 4 abcd 4).agent = .idle ∧ (receiving 4 abcd 4).rxie = true ∧ (receiving 4 abcd 4).Lockstep) ∧
    ((transmitting 4 abcd 4).agent = .idle ∧ (transmitting 4 abcd 4).txie = true ∧
      (transmitting 4 abcd 4).length ≤ (transmitting 4 abcd 4).cfg.capacity ∧ (transmitting 4 abcd 4).Lockstep) ∧
    (fresh 4 .M).IsReset :=
  ⟨by decide, by decide, by decide, ⟨rfl, rfl, rfl, rfl, rfl, rfl, rfl, rfl, rfl⟩⟩

theorem witness_HandlersDoNotNest :
    Instr.txr.port = .ev ∧ { transmitting 4 abcd 0 with agent := .rxh 0 true }.agent ≠ .idle := by decide

theorem witness_HandlersReturn :
    (∃ t, exec (.rxc 0x45) (receiving 4 abcd 4) = .next t) ∧ (receiving 4 abcd 4).Lockstep ∧
    (receiving 4 abcd 4).length ≤ (receiving 4 abcd 4).cfg.capacity ∧
    (∃ t, exec .txr (transmitting 4 abcd 4) = .next t) ∧ ∃ t, exec .init (fresh 4 .M) = .next t :=
  ⟨⟨_, rfl⟩, by decide, by decide, ⟨_, rfl⟩, ⟨_, rfl⟩⟩

theorem witness_EventFamilyFrame :
    (∃ t, exec .init (fresh 4 .M) = .next t) ∧ (∃ t, exec (.rxc 0x41) (receiving 4 [] 0) = .next t) ∧
    (∃ t, exec (.rxc 0x45) (receiving 4 abcd 4) = .next t) ∧ (∃ t, exec .txr (transmitting 4 abcd 0) = .next t) ∧
    ∃ t, exec .txr (transmitting 4 abcd 4) = .next t :=
  ⟨⟨_, rfl⟩, ⟨_, rfl⟩, ⟨_, rfl⟩, ⟨_, rfl⟩, ⟨_, rfl⟩⟩

theorem witness_EventsFollowTransitionTable :
    ((receiving 4 abcd 4).agent = .idle ∧ (receiving 4 abcd 4).length ≤ (receiving 4 abcd 4).cfg.capacity) ∧
    (tableStep (.rxc 0x45) (receiving 4 abcd 4)).isSome = true ∧ (tableStep .txr (receiving 4 abcd 4)).isSome = false ∧
    (tableStep .txr (transmitting 4 abcd 3)).isSome = true ∧ (tableStep .txr (transmitting 4 abcd 4)).isSome = true ∧
    (tableStep .init (fresh 4 .M)).isSome = true ∧ (tableStep (.rxc 0) (receiving 4 [] 3)).isSome = true := by decide

theorem witness_EventsFollowTransitionTable_mode :
    ((fresh 4 .M).Uninitialized ∧ ∃ t, exec .init (fresh 4 .M) = .next t) ∧
    ((receiving 4 abcd 4).Lockstep ∧ ∃ t, exec (.rxc 0x45) (receiving 4 abcd 4) = .next t) ∧
    ((transmitting 4 abcd 4).Lockstep ∧ ∃ t, exec .txr (transmitting 4 abcd 4) = .next t) :=
  ⟨⟨by decide, _, rfl⟩, ⟨by decide, _, rfl⟩, ⟨by decide, _, rfl⟩⟩

theorem witness_HandlerCommandOrder :
    (∃ t, exec .init (fresh 4 .M) = .next t) ∧ (∃ t, exec (.rxc 0x45) (receiving 4 abcd 4) = .next t) ∧
    ∃ t, exec .txr (transmitting 4 abcd 4) = .next t :=
  ⟨⟨_, rfl⟩, ⟨_, rfl⟩, ⟨_, rfl⟩⟩

theorem witness_ModeChangesOnlyAtTransitions :
    (∃ t, exec (.rxc 0x45) (receiving 4 abcd 4) = .next t ∧ t.mode ≠ (receiving 4 abcd 4).mode) ∧
    (∃ t, exec .txr (transmitting 4 abcd 4) = .next t ∧ t.mode ≠ (transmitting 4 abcd 4).mode) ∧
    ∃ t, exec .init { fresh 4 .M with mode := .transmitting } = .next t ∧ t.mode ≠ .transmitting :=
  ⟨⟨_, rfl, by decide⟩, ⟨_, rfl, by decide⟩, ⟨_, rfl, by decide⟩⟩

/-- The cycle at CAPACITY 1 (95_test_vectors.md section 2.3), for both clauses of the law. -/
theorem witness_FullCycleEchoesAndDropsOne :
    let s := receiving 1 [] 0
    (s.cfg.capacity ≠ 0 ∧ s.cfg.level = .M ∧ s.agent = .idle ∧ s.ReceivingLine ∧ s.length = 0) ∧
    [0x7E#8].length = s.cfg.capacity.toNat ∧
    ∃ t, core.run (2 * s.cfg.capacity.toNat + 2) { s with input := rxs [0x7E] ++ rxs [0x7F] ++ drain 2 } = .next t :=
  ⟨by decide, by decide, ⟨_, rfl⟩⟩

theorem witness_HwrdTakesTheEventByteOnce :
    { receiving 4 [] 0 with agent := .rxh 0xFF false }.agent = .rxh 0xFF false ∧
    ∀ d, { receiving 4 [] 0 with agent := .rxh 0xFF true }.agent ≠ .rxh d false :=
  ⟨rfl, fun _ h => by cases h⟩

theorem witness_HwwrHandsOverOneByte :
    { transmitting 4 abcd 0 with agent := .txh false }.agent = .txh false ∧
    { transmitting 4 abcd 0 with agent := .txh true }.agent ≠ .txh false := by decide

theorem witness_PeripheralFamilyFrame :
    (∃ t, exec .hwrd { receiving 4 [] 0 with agent := .rxh 0xFF false } = .next t) ∧
    (∃ t, exec (.hwwr 0) { transmitting 4 abcd 0 with agent := .txh false } = .next t) ∧
    (∃ t, exec .enrx (fresh 4 .M) = .next t) ∧ (∃ t, exec .disrx (fresh 4 .M) = .next t) ∧
    (∃ t, exec .entx (fresh 4 .M) = .next t) ∧ ∃ t, exec .distx (fresh 4 .M) = .next t :=
  ⟨⟨_, rfl⟩, ⟨_, rfl⟩, ⟨_, rfl⟩, ⟨_, rfl⟩, ⟨_, rfl⟩, ⟨_, rfl⟩⟩

theorem witness_EffectsFollowEmittedCommands : ∃ t, exec (.rxc 0x45) (receiving 4 abcd 4) = .next t := ⟨_, rfl⟩

theorem witness_ResetMeetsTheInvariants :
    let s : State := { fresh 4 .M with storage := abcd }
    s.IsReset ∧ s.cfg.wellFormed = true ∧ s.StorageFits :=
  ⟨⟨rfl, rfl, rfl, rfl, rfl, rfl, rfl, rfl, rfl⟩, by decide, by decide⟩

theorem witness_StepKeepsTheInvariant :
    (∃ t, (given .ev 0x545 (receiving 4 abcd 4)).Inv ∧ step (given .ev 0x545 (receiving 4 abcd 4)) = .next t) ∧
    ∃ t, (given .buf 0x1FF (fresh 4 .B)).Inv ∧ step (given .buf 0x1FF (fresh 4 .B)) = .next t :=
  ⟨⟨_, inv_given inv_receiving _ _, rfl⟩, ⟨_, inv_given (inv_fresh .B) _ _, rfl⟩⟩

/-- The second byte of a drain; 0x99 was sent in an earlier one. -/
theorem witness_StepKeepsDrainOrder :
    let s := given .ev 0x600 { transmitting 4 abcd 1 with
      cmdOut := [.hwwr 0x99, .disrx, .entx, .hwwr 0x41], txOut := [0x99, 0x41] }
    s.Inv ∧ s.Explained ∧ s.DrainOrdered ∧ ∃ t, step s = .next t :=
  have h := inv_transmitting 1 (by decide)
  ⟨inv_given (s := { transmitting 4 abcd 1 with
        cmdOut := [.hwwr 0x99, .disrx, .entx, .hwwr 0x41], txOut := [0x99, 0x41] })
      ⟨h.1, h.2, h.3, h.4, h.5, h.6, h.7, h.8, h.9⟩ _ _, by decide, fun _ => ⟨[.hwwr 0x99, .disrx], rfl, rfl⟩, ⟨_, rfl⟩⟩

/-- A byte sent in the same drain before the first cell is not in order (10_state.md R26 I-e). -/
theorem test_drain_order_shuts_out_extra_byte :
    ¬ { transmitting 4 abcd 1 with cmdOut := [.entx, .hwwr 0x99, .hwwr 0x41], txOut := [0x99, 0x41] }.DrainOrdered := by
  intro h
  obtain ⟨earlier, h1, h2⟩ := h rfl
  have hc : [Command.entx, .hwwr 0x99, .hwwr 0x41] = earlier ++ [.entx, .hwwr 0x41] := by
    rw [show [Command.entx, .hwwr 0x99, .hwwr 0x41] = earlier ++ [.entx] ++ _ from h1]
    exact List.append_assoc ..
  obtain ⟨c, rfl⟩ : ∃ c, earlier = [c] := List.length_eq_one_iff.mp (by simpa using (congrArg List.length hc).symm)
  simp at hc

theorem witness_StepKeepsTracesExplained :
    (given .ev 0x541 (receiving 4 [] 0)).Explained ∧ ∃ t, step (given .ev 0x541 (receiving 4 [] 0)) = .next t :=
  ⟨by decide, ⟨_, rfl⟩⟩

/-- At CAPACITY 1: Receiving after INIT, Transmitting after INIT and two RXC. -/
theorem witness_ReachableStatesMeetDerivedInvariants :
    let s := given .ev 0x400 (given .ev 0x541 (given .ev 0x542 (fresh 1 .M)))
    s.IsReset ∧ s.cfg.wellFormed = true ∧ s.StorageFits ∧
    (∃ t, core.run 1 s = .next t ∧ t.cmdOut ≠ [] ∧ t.mode = .receiving ∧ t.rxie = true) ∧
    ∃ t, core.run 3 s = .next t ∧ t.cmdOut ≠ [] ∧ t.mode = .transmitting :=
  ⟨⟨rfl, rfl, rfl, rfl, rfl, rfl, rfl, rfl, rfl⟩, by decide, by decide, ⟨_, rfl, by decide, rfl, rfl⟩,
    ⟨_, rfl, by decide, rfl⟩⟩

theorem witness_LockstepFromInitOn :
    (∃ t, exec .init (fresh 4 .M) = .next t) ∧
    ((receiving 4 abcd 4).agent = .idle ∧ (given .ev 0x545 (receiving 4 abcd 4)).Lockstep ∧
      ∃ t, step (given .ev 0x545 (receiving 4 abcd 4)) = .next t) ∧ (fresh 4 .M).IsReset :=
  ⟨⟨_, rfl⟩, ⟨rfl, by decide, ⟨_, rfl⟩⟩, ⟨rfl, rfl, rfl, rfl, rfl, rfl, rfl, rfl, rfl⟩⟩

theorem witness_NoReachableFault : (transmitting 4 abcd 4).Inv := inv_transmitting 4 (by decide)

/-- Steps that leave both, add one to `length` (up to the bound 4), set it to 0, add one to `cursor`, set it to 0. -/
theorem witness_CountersNeverWrap :
    (∃ t, (fresh 4 .B).Inv ∧ step (fresh 4 .B) = .next t) ∧
    (∃ t, (given .ev 0x544 { receiving 4 abcd 4 with length := 3 }).Inv ∧
      step (given .ev 0x544 { receiving 4 abcd 4 with length := 3 }) = .next t ∧ t.length = 4) ∧
    (∃ t, (given .ev 0x600 (transmitting 4 abcd 4)).Inv ∧ step (given .ev 0x600 (transmitting 4 abcd 4)) = .next t ∧
      t.length = 0) ∧
    (∃ t, (given .ev 0x600 (transmitting 4 abcd 3)).Inv ∧ step (given .ev 0x600 (transmitting 4 abcd 3)) = .next t ∧
      t.cursor = 4) ∧
    ∃ t, (given .ev 0x545 { receiving 4 abcd 4 with cursor := 4 }).Inv ∧
      step (given .ev 0x545 { receiving 4 abcd 4 with cursor := 4 }) = .next t ∧ t.cursor = 0 :=
  have h := inv_receiving
  ⟨⟨_, inv_fresh .B, rfl⟩,
    ⟨_, inv_given (s := { receiving 4 abcd 4 with length := 3 })
      ⟨h.1, h.2, by decide, by decide, h.5, h.6, (by intro k; cases k), h.8, h.9⟩ _ _, rfl, rfl⟩,
    ⟨_, inv_given (inv_transmitting 4 (by decide)) _ _, rfl, rfl⟩,
    ⟨_, inv_given (inv_transmitting 3 (by decide)) _ _, rfl, rfl⟩,
    ⟨_, inv_given (s := { receiving 4 abcd 4 with cursor := 4 })
      ⟨h.1, h.2, h.3, h.4, h.5, h.6, (by intro k; cases k), h.8, h.9⟩ _ _, rfl, rfl⟩⟩

/-- Two states that differ in a stale cell and in the stale cursor, both outcomes of a step. -/
theorem witness_StaleStateIsNeverSeen :
    let s := given .ev 0x541 { receiving 4 abcd 0 with cursor := 4 }
    let t := given .ev 0x541 { receiving 4 [(3, 0x99)] 0 with cursor := 1 }
    s.Inv ∧ s.SameVisible t ∧ (∃ u, step s = .next u) ∧
    step (given .ev 0x600 (receiving 4 abcd 4)) = .refused .transmitNotEnabled :=
  ⟨⟨by decide, by decide, by decide, by decide, rfl, .inr (.inl ⟨rfl, rfl, rfl⟩), (by intro h; cases h),
      (by intro h; cases h), rfl⟩,
    ⟨rfl, fun a ha => absurd ha (Nat.not_lt_zero a), fun h => by cases h⟩, ⟨_, rfl⟩, rfl⟩

theorem witness_OnlyInitStepsAfterReset :
    let s := given .ev 0x400 (fresh 1 .M)
    s.IsReset ∧ s.cfg.level = .M ∧ s.cfg.capacity ≠ 0 ∧ s.input = [present .init] :=
  ⟨⟨rfl, rfl, rfl, rfl, rfl, rfl, rfl, rfl, rfl⟩, by decide, by decide, by decide⟩

theorem witness_LevelBTouchesBufferOnly :
    (given .buf 0x141 (fresh 4 .B)).cfg.level = .B ∧ ∃ t, step (given .buf 0x141 (fresh 4 .B)) = .next t :=
  ⟨rfl, ⟨_, rfl⟩⟩

theorem witness_StepKeepsLockstepOnceStarted :
    (fresh 4 .M).IsReset ∧
    (∃ t, (given .ev 0x400 (fresh 4 .M)).Inv ∧ (given .ev 0x400 (fresh 4 .M)).LockstepOnceStarted ∧
      step (given .ev 0x400 (fresh 4 .M)) = .next t ∧ t.cmdOut ≠ []) ∧
    ∃ t, (given .ev 0x545 (receiving 4 abcd 4)).Inv ∧ (given .ev 0x545 (receiving 4 abcd 4)).LockstepOnceStarted ∧
      step (given .ev 0x545 (receiving 4 abcd 4)) = .next t ∧ t.mode = .transmitting :=
  ⟨⟨rfl, rfl, rfl, rfl, rfl, rfl, rfl, rfl, rfl⟩,
    ⟨_, inv_given (inv_fresh .M) _ _, by decide, rfl, by decide⟩,
    ⟨_, inv_given inv_receiving _ _, by decide, rfl, rfl⟩⟩

theorem witness_EmittedCommandsAreOperationWords :
    (∃ t, exec .init (fresh 4 .M) = .next t) ∧ (∃ t, exec (.rxc 0x45) (receiving 4 abcd 4) = .next t) ∧
    (∃ t, exec (.rxc 0x44) { receiving 4 abcd 4 with length := 3 } = .next t) ∧
    (∃ t, exec .txr (transmitting 4 abcd 3) = .next t) ∧ (∃ t, exec .txr (transmitting 4 abcd 4) = .next t) ∧
    (∃ t, exec .clear (fresh 4 .B) = .next t) ∧
    (∃ t, exec .hwrd { receiving 4 [] 0 with agent := .rxh 0xFF false } = .next t) ∧
    (∃ t, exec (.hwwr 0xFF) { transmitting 4 abcd 0 with agent := .txh false } = .next t) ∧
    ∃ t, exec .distx (fresh 4 .M) = .next t :=
  ⟨⟨_, rfl⟩, ⟨_, rfl⟩, ⟨_, rfl⟩, ⟨_, rfl⟩, ⟨_, rfl⟩, ⟨_, rfl⟩, ⟨_, rfl⟩, ⟨_, rfl⟩, ⟨_, rfl⟩⟩

end Sys2Proof.Tests
end

/-! # What every step keeps (10_state.md R16, R20, R26)

First what an event and a buffer operation leave unchanged, then the invariant in its parts (the FixedBuffer, the
lockstep, the drain), the traces and the drain order, and last runs from reset. -/

namespace Sys2Proof.Machine

/-! ## A step between observable instants -/

/-- A step from a state in which nobody runs idles, runs an event at level M, or runs a buffer operation at level B. -/
theorem step_idle_eq_next {s t : State} (ha : s.agent = .idle) (h : step s = .next t) :
    t = s ∨ ∃ i rest, exec i { s with input := rest } = .next t ∧
      (i.port = .ev ∧ s.cfg.level = .M ∨ i.port = .buf ∧ s.cfg.level = .B) := by
  obtain ⟨-, rfl⟩ | ⟨w, rest, i, -, hacc, hex⟩ := step_eq_next h
  · exact .inl rfl
  · obtain ⟨-, -, hport, hopen⟩ := accept_eq_ok hacc
    exact .inr ⟨i, rest, hex, hport ▸ portOpen_idle ha hopen⟩

/-- A property that does not look at the input is kept by every step between observable instants once the events at
level M and the buffer operations at level B keep it. -/
theorem step_keeps_of_exec {P : State → Prop} (hin : ∀ s rest, P s → P { s with input := rest })
    (hev : ∀ i s t, P s → i.port = .ev → s.cfg.level = .M → exec i s = .next t → P t)
    (hbuf : ∀ i s t, P s → i.port = .buf → s.cfg.level = .B → exec i s = .next t → P t)
    {s t : State} (ha : s.agent = .idle) (hs : P s) (h : step s = .next t) : P t := by
  obtain rfl | ⟨i, rest, hex, ⟨hp, hl⟩ | ⟨hp, hl⟩⟩ := step_idle_eq_next ha h
  · exact hs
  · exact hev i _ t (hin s rest hs) hp hl hex
  · exact hbuf i _ t (hin s rest hs) hp hl hex

/-- An event leaves the configuration, the input and who runs as they were, and no response stands after it. -/
theorem exec_ev_frame {i : Instr} {s t : State} (hp : i.port = .ev) (h : exec i s = .next t) :
    t.cfg = s.cfg ∧ t.input = s.input ∧ t.agent = s.agent ∧ t.rsp = none := by
  obtain ⟨-, ⟨-, -, -, rfl⟩ | ⟨d, -, -, -, rfl⟩ | ⟨d, -, -, -, rfl⟩ | ⟨-, -, -, -, rfl⟩ | ⟨-, -, -, rfl⟩⟩ :=
    exec_ev_eq_next hp h
  all_goals exact ⟨rfl, rfl, rfl, rfl⟩

/-- Every event emits a command. -/
theorem exec_ev_cmdOut_ne_nil {i : Instr} {s t : State} (hp : i.port = .ev) (h : exec i s = .next t) :
    t.cmdOut ≠ [] := by
  obtain ⟨-, ⟨-, -, -, rfl⟩ | ⟨d, -, -, -, rfl⟩ | ⟨d, -, -, -, rfl⟩ | ⟨-, -, -, -, rfl⟩ | ⟨-, -, -, rfl⟩⟩ :=
    exec_ev_eq_next hp h
  all_goals simp

/-- A buffer operation changes storage, `length` and the response at most. -/
theorem exec_buf_frame {i : Instr} {s t : State} (hp : i.port = .buf) (h : exec i s = .next t) :
    t = { s with storage := t.storage, length := t.length, rsp := t.rsp } := by
  obtain ⟨-, rfl⟩ | ⟨b, -, -, rfl⟩ | ⟨b, -, -, rfl⟩ | ⟨k, -, -, -, rfl⟩ | ⟨k, -, -, rfl⟩ := exec_buf_eq_next hp h
  all_goals rfl

/-- No buffer operation answers the reserved status code (30_encoding.md R55). -/
theorem exec_buf_rspLegal {i : Instr} {s t : State} (hp : i.port = .buf) (h : exec i s = .next t) :
    t.rspLegal = true := by
  have hread : ∀ b : Byte, ((0b00#2 ++ b).extractLsb' 8 2 != 0b11) = true := by decide
  obtain ⟨-, rfl⟩ | ⟨b, -, -, rfl⟩ | ⟨b, -, -, rfl⟩ | ⟨k, -, -, -, rfl⟩ | ⟨k, -, -, rfl⟩ := exec_buf_eq_next hp h
  case inr.inr.inr.inl => exact hread _
  all_goals rfl

/-! ## The FixedBuffer -/

/-- The part of `State.Inv` that speaks of the FixedBuffer alone (10_state.md R20, R26 I-a, 20_memory.md R30). -/
structure State.BufferOk (s : State) : Prop where
  storage : s.StorageFits
  length  : s.length ≤ s.cfg.capacity
  written : ∀ a < s.length.toNat, (s.storage.find a).isSome = true

theorem State.Inv.bufferOk {s : State} (h : s.Inv) : s.BufferOk := ⟨h.storage, h.length, h.written⟩

theorem zero_le_idx (n : Idx) : 0 ≤ n := BitVec.le_def.mpr (Nat.zero_le _)

/-- An index below another index does not wrap when one is added. -/
theorem toNat_succ_of_lt {n c : Idx} (h : n < c) : (n + 1).toNat = n.toNat + 1 := by
  bv_omega

/-- A change of `length` to 0, or of fields the buffer does not have. -/
theorem State.BufferOk.keep {s t : State} (h : s.BufferOk) (hcfg : t.cfg = s.cfg) (hmem : t.storage = s.storage)
    (hlen : t.length = s.length ∨ t.length = 0) : t.BufferOk := by
  have hle : t.length ≤ s.length := by
    obtain hlen | hlen := hlen
    · exact hlen ▸ BitVec.le_refl _
    · exact hlen ▸ zero_le_idx _
  refine ⟨?_, ?_, fun a ha => ?_⟩
  · simpa only [State.StorageFits, hcfg, hmem] using h.storage
  · exact hcfg ▸ BitVec.le_trans hle h.length
  · exact hmem ▸ h.written a (Nat.lt_of_lt_of_le ha (BitVec.le_def.mp hle))

/-- A byte appended where there is room. -/
theorem State.BufferOk.append {s t : State} {b : Byte} (h : s.BufferOk) (hroom : s.length < s.cfg.capacity)
    (hcfg : t.cfg = s.cfg) (hmem : t.storage = s.storage.store s.length.toNat b) (hlen : t.length = s.length + 1) :
    t.BufferOk := by
  obtain ⟨⟨hwf, hfits⟩, -, hwritten⟩ := h
  have hsucc := toNat_succ_of_lt hroom
  refine ⟨⟨hmem ▸ Memory.store_wf hwf _ _, fun c hc => ?_⟩, ?_, fun a ha => ?_⟩
  · obtain rfl | hc := Memory.mem_store (hmem ▸ hc)
    · exact hcfg ▸ BitVec.lt_def.mp hroom
    · exact hcfg ▸ hfits c hc
  · rw [hcfg, hlen, BitVec.le_def, hsucc]
    exact BitVec.lt_def.mp hroom
  · rw [hlen, hsucc] at ha
    rw [hmem, Memory.find_store]
    split
    · rfl
    · exact hwritten a (by omega)

theorem exec_ev_keeps_bufferOk {i : Instr} {s t : State} (hs : s.BufferOk) (hp : i.port = .ev)
    (h : exec i s = .next t) : t.BufferOk := by
  obtain ⟨-, ⟨-, -, -, rfl⟩ | ⟨d, -, -, hroom, rfl⟩ | ⟨d, -, -, -, rfl⟩ | ⟨-, -, -, -, rfl⟩ | ⟨-, -, -, rfl⟩⟩ :=
    exec_ev_eq_next hp h
  · exact hs.keep rfl rfl (.inr rfl)
  · exact hs.append hroom rfl rfl rfl
  · exact hs.keep rfl rfl (.inl rfl)
  · exact hs.keep rfl rfl (.inl rfl)
  · exact hs.keep rfl rfl (.inr rfl)

theorem exec_buf_keeps_bufferOk {i : Instr} {s t : State} (hs : s.BufferOk) (hp : i.port = .buf)
    (h : exec i s = .next t) : t.BufferOk := by
  obtain ⟨-, rfl⟩ | ⟨b, -, hroom, rfl⟩ | ⟨b, -, -, rfl⟩ | ⟨k, -, -, -, rfl⟩ | ⟨k, -, -, rfl⟩ :=
    exec_buf_eq_next hp h
  · exact hs.keep rfl rfl (.inr rfl)
  · exact hs.append hroom rfl rfl rfl
  all_goals exact hs.keep rfl rfl (.inl rfl)

/-! ## The lockstep (R16) -/

theorem not_receivingLine_and_transmittingLine (s : State) : ¬ (s.ReceivingLine ∧ s.TransmittingLine) := by
  rintro ⟨⟨hr, -⟩, ht, -⟩
  exact Mode.noConfusion (hr.symm.trans ht)

/-- Once the receive interrupt is enabled the state is on the receiving line. -/
theorem receivingLine_of_rxie {s : State} (h : s.Uninitialized ∨ s.Lockstep) (hr : s.rxie = true) :
    s.ReceivingLine := by
  obtain ⟨-, h0, -⟩ | hline | ⟨-, h0, -⟩ := h
  · simp [h0] at hr
  · exact hline
  · simp [h0] at hr

/-- Once the transmit interrupt is enabled the state is on the transmitting line. -/
theorem transmittingLine_of_txie {s : State} (h : s.Uninitialized ∨ s.Lockstep) (ht : s.txie = true) :
    s.TransmittingLine := by
  obtain ⟨-, -, h0⟩ | ⟨-, -, h0⟩ | hline := h
  · simp [h0] at ht
  · simp [h0] at ht
  · exact hline

/-- INIT establishes the lockstep (41_state_machine.md R80). -/
theorem exec_init_lockstep {s t : State} (h : exec .init s = .next t) : t.Lockstep := by
  obtain ⟨-, ⟨-, -, htx, rfl⟩ | ⟨d, hi, -⟩ | ⟨d, hi, -⟩ | ⟨hi, -⟩ | ⟨hi, -⟩⟩ := exec_ev_eq_next rfl h
  · exact .inl ⟨rfl, rfl, htx⟩
  all_goals cases hi

/-- Every event ends in the lockstep: INIT and the two transitions establish it, and an RXC with room and a TXR that
sends are delivered on a line they stay on. -/
theorem exec_ev_lockstep {i : Instr} {s t : State} (hs : s.Uninitialized ∨ s.Lockstep) (hp : i.port = .ev)
    (h : exec i s = .next t) : t.Lockstep := by
  obtain ⟨-, ⟨rfl, -⟩ | ⟨d, -, hrx, -, rfl⟩ | ⟨d, -, -, -, rfl⟩ | ⟨-, htx, -, -, rfl⟩ | ⟨-, -, -, rfl⟩⟩ :=
    exec_ev_eq_next hp h
  · exact exec_init_lockstep h
  · exact .inl (receivingLine_of_rxie hs hrx)
  · exact .inr ⟨rfl, rfl, rfl⟩
  · exact .inr (transmittingLine_of_txie hs htx)
  · exact .inl ⟨rfl, rfl, rfl⟩

/-- A buffer operation leaves the mode and both enable bits. -/
theorem exec_buf_uninitialized_iff {i : Instr} {s t : State} (hp : i.port = .buf) (h : exec i s = .next t) :
    t.Uninitialized ↔ s.Uninitialized := by
  rw [exec_buf_frame hp h]

/-- Each event ends in the lockstep, and a buffer operation does not touch it. -/
theorem step_keeps_lockstep {s t : State} (ha : s.agent = .idle) (hs : s.Lockstep) (h : step s = .next t) :
    t.agent = .idle ∧ t.Lockstep := by
  refine step_keeps_of_exec (P := fun s => s.agent = .idle ∧ s.Lockstep) (fun _ _ hs => hs)
    (fun i s t hs hp _ h => ?_) (fun i s t hs hp _ h => ?_) ha ⟨ha, hs⟩ h
  · obtain ⟨-, -, hagent, -⟩ := exec_ev_frame hp h
    exact ⟨hagent.trans hs.1, exec_ev_lockstep (.inr hs.2) hp h⟩
  · rw [exec_buf_frame hp h]
    exact hs

theorem State.IsReset.not_lockstep {s : State} (hs : s.IsReset) : ¬ s.Lockstep := by
  rintro (⟨-, hr, -⟩ | ⟨-, -, ht⟩)
  · simp [hs.rxie] at hr
  · simp [hs.txie] at ht

/-- Settles O45: INIT ends on the receiving line, and every step keeps the lockstep. -/
theorem lockstepFromInitOn : Obligations.LockstepFromInitOn := by
  unfold Obligations.LockstepFromInitOn
  exact ⟨fun _ _ => exec_init_lockstep, fun _ _ => step_keeps_lockstep, not_receivingLine_and_transmittingLine,
    fun _ hs => ⟨hs.rxie, hs.txie, hs.not_lockstep⟩⟩

/-! ## The invariant -/

/-- I-c is kept by every event: the overflow transition begins it with the cursor at 0, a TXR that sends moves the cursor
below `length`, and all other events end in Receiving. -/
theorem exec_ev_draining {i : Instr} {s t : State} (hs : s.Inv) (hp : i.port = .ev) (h : exec i s = .next t)
    (hm : t.mode = .transmitting) : t.length = t.cfg.capacity ∧ t.cursor ≤ t.length := by
  obtain ⟨-, ⟨-, -, -, rfl⟩ | ⟨d, -, hrx, -, rfl⟩ | ⟨d, -, -, hfull, rfl⟩ | ⟨-, -, hlt, -, rfl⟩ | ⟨-, -, -, rfl⟩⟩ :=
    exec_ev_eq_next hp h
  · cases hm
  · obtain ⟨hmode, -⟩ := receivingLine_of_rxie hs.lockstep hrx
    cases hmode.symm.trans hm
  · exact ⟨BitVec.le_antisymm hs.length (BitVec.not_lt.mp hfull), zero_le_idx _⟩
  · refine ⟨(hs.draining hm).1, ?_⟩
    rw [BitVec.le_def, toNat_succ_of_lt hlt]
    exact BitVec.lt_def.mp hlt
  · cases hm

theorem State.Inv.withInput {s : State} (h : s.Inv) (rest : List Transaction) : { s with input := rest }.Inv :=
  ⟨h.capacity, h.storage, h.length, h.written, h.idle, h.lockstep, h.draining, h.levelB, h.rsp⟩

theorem exec_ev_keeps_inv {i : Instr} {s t : State} (hs : s.Inv) (hp : i.port = .ev) (hl : s.cfg.level = .M)
    (h : exec i s = .next t) : t.Inv := by
  obtain ⟨hcfg, -, hagent, hrsp⟩ := exec_ev_frame hp h
  obtain ⟨hstorage, hlength, hwritten⟩ := exec_ev_keeps_bufferOk hs.bufferOk hp h
  exact {
    capacity := hcfg ▸ hs.capacity
    storage := hstorage
    length := hlength
    written := hwritten
    idle := hagent.trans hs.idle
    lockstep := .inr (exec_ev_lockstep hs.lockstep hp h)
    draining := exec_ev_draining hs hp h
    levelB := fun hB => by simp [hcfg, hl] at hB
    rsp := by simp [State.rspLegal, hrsp] }

theorem exec_buf_keeps_inv {i : Instr} {s t : State} (hs : s.Inv) (hp : i.port = .buf) (hl : s.cfg.level = .B)
    (h : exec i s = .next t) : t.Inv := by
  have hframe := exec_buf_frame hp h
  have hcfg : t.cfg = s.cfg := by rw [hframe]
  have hagent : t.agent = s.agent := by rw [hframe]
  have huninit := (exec_buf_uninitialized_iff hp h).mpr (hs.levelB hl)
  obtain ⟨hstorage, hlength, hwritten⟩ := exec_buf_keeps_bufferOk hs.bufferOk hp h
  exact {
    capacity := hcfg ▸ hs.capacity
    storage := hstorage
    length := hlength
    written := hwritten
    idle := hagent.trans hs.idle
    lockstep := .inl huninit
    draining := fun hm => by simp [huninit.1] at hm
    levelB := fun _ => huninit
    rsp := exec_buf_rspLegal hp h }

/-- Every step keeps the invariant. -/
theorem step_keeps_inv {s t : State} (hs : s.Inv) (h : step s = .next t) : t.Inv :=
  step_keeps_of_exec (P := State.Inv) (fun _ rest hs => hs.withInput rest)
    (fun _ _ _ hs hp hl h => exec_ev_keeps_inv hs hp hl h) (fun _ _ _ hs hp hl h => exec_buf_keeps_inv hs hp hl h)
    hs.idle hs h

/-! ## The traces and the drain order (R22, R26 I-e) -/

/-- Commands that take the enable bits and the bytes sent from before to after keep the traces explained. -/
theorem State.Explained.append {s t : State} {new : List Command} (hs : s.Explained)
    (hcmd : t.cmdOut = s.cmdOut ++ new) (hrx : t.rxie = new.foldl Command.rxieAfter s.rxie)
    (htx : t.txie = new.foldl Command.txieAfter s.txie) (hout : t.txOut = s.txOut ++ new.filterMap Command.sent) :
    t.Explained := by
  obtain ⟨hs1, hs2, hs3⟩ := hs
  refine ⟨?_, ?_, ?_⟩
  · rw [hrx, hcmd, List.foldl_append, ← hs1]
  · rw [htx, hcmd, List.foldl_append, ← hs2]
  · rw [hout, hcmd, List.filterMap_append, ← hs3]

theorem exec_ev_keeps_explained {i : Instr} {s t : State} (hs : s.Explained) (hp : i.port = .ev)
    (h : exec i s = .next t) : t.Explained := by
  obtain ⟨-, ⟨-, -, -, rfl⟩ | ⟨d, -, -, -, rfl⟩ | ⟨d, -, -, -, rfl⟩ | ⟨-, -, -, -, rfl⟩ | ⟨-, -, -, rfl⟩⟩ :=
    exec_ev_eq_next hp h
  case inr.inr.inr.inl => exact hs.append rfl rfl rfl rfl
  all_goals exact hs.append rfl rfl rfl (List.append_nil _).symm

theorem exec_buf_explained_iff {i : Instr} {s t : State} (hp : i.port = .buf) (h : exec i s = .next t) :
    t.Explained ↔ s.Explained := by
  rw [exec_buf_frame hp h]

/-- A drain that has moved on by one cell has sent that cell's byte too. -/
theorem State.drained_succ {s t : State} (hmem : t.storage = s.storage)
    (hcur : t.cursor.toNat = s.cursor.toNat + 1) : t.drained = s.drained ++ [Ops.cell s s.cursor.toNat] := by
  simp [State.drained, hcur, List.range_succ, Ops.cell_congr hmem]

/-- The byte of the cell at the cursor, appended to both traces, is the next one of the drain. -/
theorem State.DrainOrdered.send {s t : State} (hd : s.DrainOrdered) (hm : s.mode = .transmitting)
    (hmem : t.storage = s.storage) (hcur : t.cursor.toNat = s.cursor.toNat + 1)
    (hcmd : t.cmdOut = s.cmdOut ++ [.hwwr (Ops.cell s s.cursor.toNat)])
    (hout : t.txOut = s.txOut ++ [Ops.cell s s.cursor.toNat]) : t.DrainOrdered := by
  intro _
  obtain ⟨earlier, hcmd', hout'⟩ := hd hm
  have hdrained := State.drained_succ hmem hcur
  refine ⟨earlier, ?_, ?_⟩
  · simp [hcmd, hcmd', hdrained]
  · simp [hout, hout', hdrained]

/-- A drain begins with the ENTX of the overflow transition and nothing sent; a TXR that sends appends the byte of the
cell at the cursor to both traces; after every other event the mode is Receiving. -/
theorem exec_ev_keeps_drainOrdered {i : Instr} {s t : State} (hs : s.Inv) (he : s.Explained) (hd : s.DrainOrdered)
    (hp : i.port = .ev) (h : exec i s = .next t) : t.DrainOrdered := by
  intro hm
  obtain ⟨-, ⟨-, -, -, rfl⟩ | ⟨d, -, hrx, -, rfl⟩ | ⟨d, -, -, -, rfl⟩ | ⟨-, -, hlt, -, rfl⟩ | ⟨-, -, -, rfl⟩⟩ :=
    exec_ev_eq_next hp h
  · cases hm
  · obtain ⟨hmode, -⟩ := receivingLine_of_rxie hs.lockstep hrx
    cases hmode.symm.trans hm
  · obtain ⟨-, -, hsent⟩ := he
    refine ⟨s.cmdOut ++ [.hwrd, .disrx], ?_, ?_⟩
    · simp [State.drained]
    · simp [State.drained, hsent, Command.sent]
  · exact hd.send hm rfl (toNat_succ_of_lt hlt) rfl rfl hm
  · cases hm

/-! ## Once started -/

theorem exec_ev_lockstepOnceStarted {i : Instr} {s t : State} (hs : s.Uninitialized ∨ s.Lockstep) (hp : i.port = .ev)
    (h : exec i s = .next t) : t.LockstepOnceStarted :=
  ⟨fun h0 => absurd h0 (exec_ev_cmdOut_ne_nil hp h), fun _ => exec_ev_lockstep hs hp h⟩

theorem exec_buf_lockstepOnceStarted_iff {i : Instr} {s t : State} (hp : i.port = .buf) (h : exec i s = .next t) :
    t.LockstepOnceStarted ↔ s.LockstepOnceStarted := by
  rw [exec_buf_frame hp h]

/-! ## Runs from reset -/

/-- What holds in every state reachable from reset (`run_keeps`): the invariant, and what the traces say. -/
structure State.RunInv (s : State) : Prop where
  inv          : s.Inv
  explained    : s.Explained
  drainOrdered : s.DrainOrdered
  started      : s.LockstepOnceStarted

theorem State.IsReset.inv {s : State} (hs : s.IsReset) (hc : s.cfg.wellFormed = true) (hf : s.StorageFits) : s.Inv where
  capacity := hc
  storage := hf
  length := hs.length ▸ zero_le_idx _
  written a ha := by simp [hs.length] at ha
  idle := hs.agent
  lockstep := .inl ⟨hs.mode, hs.rxie, hs.txie⟩
  draining hm := by simp [hs.mode] at hm
  levelB _ := ⟨hs.mode, hs.rxie, hs.txie⟩
  rsp := by simp [State.rspLegal, hs.rsp]

theorem State.IsReset.runInv {s : State} (hs : s.IsReset) (hc : s.cfg.wellFormed = true) (hf : s.StorageFits) :
    s.RunInv where
  inv := hs.inv hc hf
  explained := by simp [State.Explained, hs.rxie, hs.txie, hs.cmdOut, hs.txOut]
  drainOrdered hm := by simp [hs.mode] at hm
  started := ⟨fun _ => ⟨hs.mode, hs.rxie, hs.txie⟩, fun h => absurd hs.cmdOut h⟩

theorem exec_ev_keeps_runInv {i : Instr} {s t : State} (hs : s.RunInv) (hp : i.port = .ev)
    (hl : s.cfg.level = .M) (h : exec i s = .next t) : t.RunInv where
  inv := exec_ev_keeps_inv hs.inv hp hl h
  explained := exec_ev_keeps_explained hs.explained hp h
  drainOrdered := exec_ev_keeps_drainOrdered hs.inv hs.explained hs.drainOrdered hp h
  started := exec_ev_lockstepOnceStarted hs.inv.lockstep hp h

/-- At level B the mode stays Receiving, so there is no drain to keep in order. -/
theorem exec_buf_keeps_runInv {i : Instr} {s t : State} (hs : s.RunInv) (hp : i.port = .buf)
    (hl : s.cfg.level = .B) (h : exec i s = .next t) : t.RunInv where
  inv := exec_buf_keeps_inv hs.inv hp hl h
  explained := (exec_buf_explained_iff hp h).mpr hs.explained
  drainOrdered hm := by
    obtain ⟨hmode, -⟩ := (exec_buf_uninitialized_iff hp h).mpr (hs.inv.levelB hl)
    cases hmode.symm.trans hm
  started := (exec_buf_lockstepOnceStarted_iff hp h).mpr hs.started

theorem step_keeps_runInv {s t : State} (hs : s.RunInv) (h : step s = .next t) : t.RunInv :=
  step_keeps_of_exec (P := State.RunInv)
    (fun _ rest hs => ⟨hs.inv.withInput rest, hs.explained, hs.drainOrdered, hs.started⟩)
    (fun _ _ _ hs hp hl h => exec_ev_keeps_runInv hs hp hl h)
    (fun _ _ _ hs hp hl h => exec_buf_keeps_runInv hs hp hl h) hs.inv.idle hs h

/-- Settles O44: `State.RunInv` holds at reset and every step keeps it, and each clause is read off it. -/
theorem reachableStatesMeetDerivedInvariants : Obligations.ReachableStatesMeetDerivedInvariants := by
  unfold Obligations.ReachableStatesMeetDerivedInvariants
  intro s t k hs hc hf hrun
  obtain ⟨hinv, -, hdrain, hstarted⟩ :=
    run_keeps (fun _ _ => step_keeps_runInv) k s t (hs.runInv hc hf) hrun
  have hlength : 0 ≤ t.length ∧ t.length ≤ t.cfg.capacity := ⟨zero_le_idx _, hinv.length⟩
  refine ⟨hlength, fun hcmd => ⟨hstarted.2 hcmd, not_receivingLine_and_transmittingLine t⟩, fun hm => ?_,
    fun _ _ => hlength, hdrain⟩
  obtain ⟨hfull, hcursor⟩ := hinv.draining hm
  exact ⟨hfull, zero_le_idx _, hcursor⟩

end Sys2Proof.Machine

/-! # The FixedBuffer as a list of bytes (10_state.md R20, 40_fixedbuffer.md R70 to R74)

First what CLEAR, WRITE and READ answer, then the valid entries of the buffer and what each operation makes of them, and
last sequences of operations. -/

namespace Sys2Proof.Machine

/-! ## The three operations -/

theorem exec_clear (s : State) : exec .clear s = .next { s with length := 0, rsp := some 0x000 } := rfl

theorem exec_write_of_room {s : State} (b : Byte) (h : s.length < s.cfg.capacity) :
    exec (.write b) s =
      .next { s with storage := s.storage.store s.length.toNat b, length := s.length + 1, rsp := some 0x000 } := by
  simp only [exec, execWrite, Ops.bufWrite_of_room b h, andThen_next]
  rfl

theorem exec_write_of_full {s : State} (b : Byte) (h : ¬ s.length < s.cfg.capacity) :
    exec (.write b) s = .next { s with rsp := some 0x100 } := by
  simp only [exec, execWrite, Ops.bufWrite_of_full b h, andThen_next]
  rfl

theorem exec_read_in_range {s : State} {k : Idx} (h : k < s.length) (hc : k < s.cfg.capacity) :
    exec (.read k) s = .next { s with rsp := some (0b00#2 ++ Ops.cell s k.toNat) } := by
  simp only [exec, execRead, Ops.bufRead_in_range h hc, andThen_next]
  rfl

theorem exec_read_out_of_range {s : State} {k : Idx} (h : ¬ k < s.length) :
    exec (.read k) s = .next { s with rsp := some 0x200 } := by
  simp only [exec, execRead, Ops.bufRead_out_of_range h, andThen_next]
  rfl

/-- A valid index is an index of storage where `length` is at most CAPACITY. -/
theorem lt_capacity_of_lt_length {s : State} {k : Idx} (hk : k < s.length) (hs : s.length ≤ s.cfg.capacity) :
    k < s.cfg.capacity := by
  bv_omega

/-- With `length` at most CAPACITY no buffer operation stops. -/
theorem exec_buf_completes {i : Instr} {s : State} (hp : i.port = .buf) (hs : s.length ≤ s.cfg.capacity) :
    ∃ t, exec i s = .next t := by
  cases i <;> simp [Instr.port] at hp
  case clear => exact ⟨_, exec_clear s⟩
  case write b =>
    by_cases hroom : s.length < s.cfg.capacity
    · exact ⟨_, exec_write_of_room b hroom⟩
    · exact ⟨_, exec_write_of_full b hroom⟩
  case read k =>
    by_cases hk : k < s.length
    · exact ⟨_, exec_read_in_range hk (lt_capacity_of_lt_length hk hs)⟩
    · exact ⟨_, exec_read_out_of_range hk⟩

theorem exec_buf_keeps_length_le {i : Instr} {s t : State} (hs : s.length ≤ s.cfg.capacity) (hp : i.port = .buf)
    (h : exec i s = .next t) : t.length ≤ t.cfg.capacity := by
  obtain ⟨-, rfl⟩ | ⟨b, -, hroom, rfl⟩ | ⟨b, -, -, rfl⟩ | ⟨k, -, -, -, rfl⟩ | ⟨k, -, -, rfl⟩ := exec_buf_eq_next hp h
  · exact zero_le_idx _
  · rw [BitVec.le_def, toNat_succ_of_lt hroom]
    exact BitVec.lt_def.mp hroom
  all_goals exact hs

/-! ## The valid entries -/

/-- The valid entries of the buffer in the order of their indices (10_state.md R20): the cells below `length`. -/
def State.entries (s : State) : List Byte := (List.range s.length.toNat).map (Ops.cell s)

@[simp] theorem State.entries_length (s : State) : s.entries.length = s.length.toNat := by
  simp [State.entries]

theorem State.entries_eq_nil {s : State} (h : s.length = 0) : s.entries = [] := by
  simp [State.entries, h]

/-- The entries depend on storage and `length` alone. -/
theorem State.entries_congr {s t : State} (hmem : t.storage = s.storage) (hlen : t.length = s.length) :
    t.entries = s.entries := by
  simp [State.entries, hlen, Ops.cell_congr hmem]

/-- A byte stored at the old `length`, which rises by one, is a new last entry. -/
theorem State.entries_append {s t : State} {b : Byte} (hmem : t.storage = s.storage.store s.length.toNat b)
    (hlen : t.length.toNat = s.length.toNat + 1) : t.entries = s.entries ++ [b] := by
  have hcell (a : Nat) : Ops.cell t a = if a = s.length.toNat then b else Ops.cell s a :=
    (Ops.cell_congr hmem a).trans (Ops.cell_setStorage_store s _ a b)
  have hbelow : ∀ a ∈ List.range s.length.toNat, Ops.cell t a = Ops.cell s a := fun a ha => by
    rw [hcell, if_neg (Nat.ne_of_lt (List.mem_range.mp ha))]
  simp [State.entries, hlen, List.range_succ, List.map_congr_left hbelow, hcell]

/-- Each buffer operation does to the entries what `entriesStep` says. -/
theorem exec_buf_entries {i : Instr} {s t : State} (hp : i.port = .buf) (h : exec i s = .next t) :
    t.entries = entriesStep s.cfg.capacity.toNat s.entries i := by
  obtain ⟨rfl, rfl⟩ | ⟨b, rfl, hroom, rfl⟩ | ⟨b, rfl, hfull, rfl⟩ | ⟨k, rfl, -, -, rfl⟩ | ⟨k, rfl, -, rfl⟩ :=
    exec_buf_eq_next hp h
  · exact State.entries_eq_nil rfl
  · rw [State.entries_append rfl (toNat_succ_of_lt hroom)]
    simp [entriesStep, BitVec.lt_def.mp hroom]
  · refine (State.entries_congr (s := s) rfl rfl).trans ?_
    simp [entriesStep, Nat.not_lt.mp (mt BitVec.lt_def.mpr hfull)]
  all_goals exact State.entries_congr rfl rfl

/-- READ of an index below the number of entries answers the entry at that index. -/
theorem exec_read_entry {s : State} {es : List Byte} (hs : s.length ≤ s.cfg.capacity) (hes : s.entries = es) {k : Idx}
    (hk : k.toNat < es.length) : exec (.read k) s = .next { s with rsp := some (0b00#2 ++ es[k.toNat]) } := by
  subst hes
  have hlt : k < s.length := BitVec.lt_def.mpr (s.entries_length ▸ hk)
  rw [exec_read_in_range hlt (lt_capacity_of_lt_length hlt hs)]
  simp [State.entries]

/-! ## Sequences of operations -/

theorem execAll_cons {i : Instr} {is : List Instr} {s t u : State} {rs : List (Option RspWord)}
    (h : exec i s = .next t) (hs : execAll is t = some (u, rs)) : execAll (i :: is) s = some (u, t.rsp :: rs) := by
  simp only [execAll, h, hs]

/-- Buffer operations from a state with `length` at most CAPACITY all complete, and `entriesStep` says what becomes of the
entries. -/
theorem execAll_buf {is : List Instr} (hp : ∀ i ∈ is, i.port = .buf) {s : State} (hs : s.length ≤ s.cfg.capacity) :
    ∃ t rs, execAll is s = some (t, rs) ∧ t.length ≤ t.cfg.capacity ∧
      t.entries = is.foldl (entriesStep s.cfg.capacity.toNat) s.entries := by
  induction is generalizing s with
  | nil => exact ⟨s, [], rfl, hs, rfl⟩
  | cons i is ih =>
    obtain ⟨hpi, hpis⟩ := List.forall_mem_cons.mp hp
    obtain ⟨t, hexec⟩ := exec_buf_completes hpi hs
    have hcfg : t.cfg = s.cfg := by rw [exec_buf_frame hpi hexec]
    obtain ⟨u, rs, hall, hu, hentries⟩ := ih hpis (exec_buf_keeps_length_le hs hpi hexec)
    refine ⟨u, _, execAll_cons hexec hall, hu, ?_⟩
    rw [hentries, hcfg, exec_buf_entries hpi hexec, List.foldl_cons]

/-- A CLEAR and buffer operations behind it complete from every state, and leave the bytes written since the last
CLEAR. -/
theorem execAll_clear_buf {is : List Instr} (hp : ∀ i ∈ is, i.port = .buf) (s : State) :
    ∃ t rs, execAll (.clear :: is) s = some (t, rs) ∧ t.length ≤ t.cfg.capacity ∧
      t.entries = entriesAfter s.cfg.capacity.toNat is := by
  obtain ⟨t, rs, hall, ht, hentries⟩ :=
    execAll_buf hp (s := { s with length := 0, rsp := some 0x000 }) (zero_le_idx _)
  refine ⟨t, _, execAll_cons (exec_clear s) hall, ht, ?_⟩
  rw [hentries, State.entries_eq_nil rfl]
  rfl

/-- CLEARs and READs write nothing. -/
theorem entriesAfter_clear_read {is : List Instr} (his : ∀ i ∈ is, i = .clear ∨ ∃ k, i = .read k) (c : Nat) :
    entriesAfter c is = [] := by
  refine List.foldlRecOn is (entriesStep c) (motive := (· = [])) rfl fun es hes i hi => ?_
  obtain rfl | ⟨k, rfl⟩ := his i hi
  · rfl
  · exact hes

/-- WRITEs for which there is room all succeed, and append their bytes to the entries. -/
theorem execAll_writes (bs : List Byte) {s : State} (hroom : s.length.toNat + bs.length ≤ s.cfg.capacity.toNat) :
    ∃ t, execAll (bs.map .write) s = some (t, List.replicate bs.length (some 0x000)) ∧
      t.length ≤ t.cfg.capacity ∧ t.entries = s.entries ++ bs := by
  induction bs generalizing s with
  | nil => exact ⟨s, rfl, BitVec.le_def.mpr hroom, (List.append_nil _).symm⟩
  | cons b bs ih =>
    rw [List.length_cons] at hroom
    have hlt : s.length < s.cfg.capacity := BitVec.lt_def.mpr (by omega)
    have hexec := exec_write_of_room b hlt
    have hsucc := toNat_succ_of_lt hlt
    obtain ⟨u, hall, hu, hentries⟩ := ih (s := { s with
      storage := s.storage.store s.length.toNat b, length := s.length + 1, rsp := some 0x000 }) (by
        simp only [hsucc]
        omega)
    refine ⟨u, execAll_cons hexec hall, hu, ?_⟩
    rw [hentries, State.entries_append rfl hsucc, List.append_assoc, List.singleton_append]

/-- Settles O16: a WRITE with room makes its byte the last entry, and after a CLEAR and any buffer operations READ answers
the entries, which are the bytes written since the last CLEAR. -/
theorem bufferIsDeterministic : Obligations.BufferIsDeterministic := by
  unfold Obligations.BufferIsDeterministic
  refine ⟨fun b s hroom => ?_, fun s is hp => ?_⟩
  · have hlt : s.length < s.length + 1 := by
      rw [BitVec.lt_def, toNat_succ_of_lt hroom]
      exact Nat.lt_succ_self _
    refine ⟨_, _, exec_write_of_room b hroom, rfl, exec_read_in_range hlt hroom, ?_⟩
    simp [Ops.cell, Memory.find_store_same]
  · obtain ⟨t, rs, hall, ht, hentries⟩ := execAll_clear_buf hp s
    exact ⟨t, rs, hall, by rw [← hentries, State.entries_length], fun k hk => exec_read_entry ht hentries hk⟩

/-- Settles O17: WRITEs on an empty buffer append their bytes to no entries; CLEARs and READs leave none. -/
theorem bufferTestableProperties : Obligations.BufferTestableProperties := by
  unfold Obligations.BufferTestableProperties
  refine ⟨fun s bs hempty hfit => ?_, fun b s hfull => ?_, fun s is his => ?_, fun s => ⟨_, rfl, rfl, rfl⟩⟩
  · obtain ⟨t, hall, ht, hentries⟩ := execAll_writes bs (s := s) (by simpa [hempty] using hfit)
    rw [State.entries_eq_nil hempty, List.nil_append] at hentries
    have hlength : t.length.toNat = bs.length := by rw [← hentries, State.entries_length]
    refine ⟨t, hall, hlength, fun i => ⟨fun hi => exec_read_entry ht hentries hi, fun hi => ?_⟩⟩
    exact exec_read_out_of_range fun hlt => Nat.not_lt.mpr hi (hlength ▸ BitVec.lt_def.mp hlt)
  · exact exec_write_of_full b (hfull ▸ BitVec.lt_irrefl _)
  · have hp : ∀ i ∈ is, i.port = .buf := fun i hi => by
      obtain rfl | ⟨k, rfl⟩ := his i hi <;> rfl
    obtain ⟨t, rs, hall, -, hentries⟩ := execAll_clear_buf hp s
    have hlength : t.length = 0 := BitVec.eq_of_toNat_eq (by
      rw [← State.entries_length, hentries, entriesAfter_clear_read his]
      rfl)
    exact ⟨t, rs, hall, hlength, exec_read_out_of_range (hlength ▸ BitVec.lt_irrefl _)⟩

end Sys2Proof.Machine

/-! # The events (41_state_machine.md R80 to R88)

First what INIT, RXC and TXR answer in each case, then the transition table, and last the cycle: a word presented
between steps, and the steps of a fill and of the drain behind it. -/

namespace Sys2Proof.Machine

/-! ## The two handlers (R82 to R86) -/

theorem receiveHandler_of_room {s : State} {d : Byte} (ha : s.agent = .rxh d false) (h : s.length < s.cfg.capacity) :
    receiveHandler s = .next { s with storage := s.storage.store s.length.toNat d, length := s.length + 1,
                                      cmdOut := s.cmdOut ++ [.hwrd], agent := .idle, rsp := none } := by
  simp only [receiveHandler, Ops.hwrd_of_rxh ha, andThen_next]
  rw [Ops.bufWrite_of_room d (by exact h)]
  rfl

theorem receiveHandler_of_full {s : State} {d : Byte} (ha : s.agent = .rxh d false)
    (h : ¬ s.length < s.cfg.capacity) :
    receiveHandler s = .next { s with rxie := false, txie := true, cursor := 0, mode := .transmitting,
                                      cmdOut := s.cmdOut ++ [.hwrd, .disrx, .entx], dropLog := s.dropLog ++ [d],
                                      agent := .idle, rsp := none } := by
  simp only [receiveHandler, Ops.hwrd_of_rxh ha, andThen_next]
  rw [Ops.bufWrite_of_full d (by exact h)]
  simp [Ops.leaveHandler_eq, Ops.overflow_eq, State.setAgent, State.emit]

theorem transmitHandler_of_lt {s : State} (ha : s.agent = .txh false) (h : s.cursor < s.length)
    (hc : s.cursor < s.cfg.capacity) :
    transmitHandler s = .next { s with cursor := s.cursor + 1, txOut := s.txOut ++ [Ops.cell s s.cursor.toNat],
                                       cmdOut := s.cmdOut ++ [.hwwr (Ops.cell s s.cursor.toNat)], agent := .idle,
                                       rsp := none } := by
  simp only [transmitHandler, Ops.bufRead_in_range h hc, Ops.hwwr_of_txh _ ha, andThen_next, if_true]
  rfl

theorem transmitHandler_of_not_lt {s : State} (h : ¬ s.cursor < s.length) :
    transmitHandler s = .next { s with length := 0, txie := false, rxie := true, mode := .receiving,
                                       cmdOut := s.cmdOut ++ [.distx, .enrx], agent := .idle, rsp := none } := by
  simp [transmitHandler, Ops.bufRead_out_of_range h, Ops.leaveHandler_eq, Ops.drainComplete_eq]

/-! ## Delivery (R80, R81) -/

theorem exec_init_of_enabled {s : State} (ha : s.agent = .idle) (h : s.rxie = true ∨ s.txie = true) :
    exec .init s = .refused .alreadyInitialized := by
  simp [exec, execInit, ha, h]

/-- A delivered RXC runs the receive handler. -/
theorem exec_rxc_of_enabled {s : State} (d : Byte) (ha : s.agent = .idle) (hrx : s.rxie = true) :
    exec (.rxc d) s = receiveHandler (Ops.enterHandler (.rxh d false) s) := by
  simp [exec, execRxc, ha, hrx]

theorem exec_rxc_of_disabled {s : State} (d : Byte) (ha : s.agent = .idle) (hrx : s.rxie = false) :
    exec (.rxc d) s = .refused .receiveNotEnabled := by
  simp [exec, execRxc, ha, hrx]

/-- A delivered TXR runs the transmit handler. -/
theorem exec_txr_of_enabled {s : State} (ha : s.agent = .idle) (htx : s.txie = true) :
    exec .txr s = transmitHandler (Ops.enterHandler (.txh false) s) := by
  simp [exec, execTxr, ha, htx]

theorem exec_txr_of_disabled {s : State} (ha : s.agent = .idle) (htx : s.txie = false) :
    exec .txr s = .refused .transmitNotEnabled := by
  simp [exec, execTxr, ha, htx]

/-! ## The rows T0 to T4 of the transition table (R87) -/

/-- T0. -/
theorem exec_init_of_disabled {s : State} (ha : s.agent = .idle) (hrx : s.rxie = false) (htx : s.txie = false) :
    exec .init s = .next { s with length := 0, mode := .receiving, rxie := true, cmdOut := s.cmdOut ++ [.enrx],
                                  rsp := none } := by
  simp [exec, execInit, ha, hrx, htx, Ops.leaveHandler_eq, Ops.enterHandler, Ops.bufClear, Ops.enrx, State.setAgent,
    State.setLength, State.setMode, State.setRxie, State.emit]

/-- T1. -/
theorem exec_rxc_of_room {s : State} (d : Byte) (ha : s.agent = .idle) (hrx : s.rxie = true)
    (h : s.length < s.cfg.capacity) :
    exec (.rxc d) s = .next { s with storage := s.storage.store s.length.toNat d, length := s.length + 1,
                                     cmdOut := s.cmdOut ++ [.hwrd], rsp := none } := by
  rw [exec_rxc_of_enabled d ha hrx, receiveHandler_of_room (d := d) rfl (by exact h), ← ha]
  rfl

/-- T2. -/
theorem exec_rxc_of_full {s : State} (d : Byte) (ha : s.agent = .idle) (hrx : s.rxie = true)
    (h : ¬ s.length < s.cfg.capacity) :
    exec (.rxc d) s = .next { s with rxie := false, txie := true, cursor := 0, mode := .transmitting,
                                     cmdOut := s.cmdOut ++ [.hwrd, .disrx, .entx], dropLog := s.dropLog ++ [d],
                                     rsp := none } := by
  rw [exec_rxc_of_enabled d ha hrx, receiveHandler_of_full (d := d) rfl (by exact h), ← ha]
  rfl

/-- T3. -/
theorem exec_txr_of_lt {s : State} (ha : s.agent = .idle) (htx : s.txie = true) (h : s.cursor < s.length)
    (hc : s.cursor < s.cfg.capacity) :
    exec .txr s = .next { s with cursor := s.cursor + 1, txOut := s.txOut ++ [Ops.cell s s.cursor.toNat],
                                 cmdOut := s.cmdOut ++ [.hwwr (Ops.cell s s.cursor.toNat)], rsp := none } := by
  rw [exec_txr_of_enabled ha htx, transmitHandler_of_lt rfl (by exact h) (by exact hc), ← ha]
  rfl

/-- T4. -/
theorem exec_txr_of_not_lt {s : State} (ha : s.agent = .idle) (htx : s.txie = true) (h : ¬ s.cursor < s.length) :
    exec .txr s = .next { s with length := 0, txie := false, rxie := true, mode := .receiving,
                                 cmdOut := s.cmdOut ++ [.distx, .enrx], rsp := none } := by
  rw [exec_txr_of_enabled ha htx, transmitHandler_of_not_lt (by exact h), ← ha]
  rfl

/-- Settles O23: it is row T2, since a `length` equal to CAPACITY leaves no room. -/
theorem rxcOverflowStartsDrain : Obligations.RxcOverflowStartsDrain := by
  unfold Obligations.RxcOverflowStartsDrain
  intro d s ha hrx hfull
  exact exec_rxc_of_full d ha hrx (hfull ▸ BitVec.lt_irrefl _)

/-- Settles O24: it is row T3, and a cursor below `length` has a next value. -/
theorem txrSendsByteAtCursor : Obligations.TxrSendsByteAtCursor := by
  unfold Obligations.TxrSendsByteAtCursor
  intro s ha htx hlt hlen
  have hsucc := toNat_succ_of_lt hlt
  refine ⟨exec_txr_of_lt ha htx hlt (lt_capacity_of_lt_length hlt hlen), hsucc, ?_⟩
  rw [BitVec.le_def, hsucc]
  exact BitVec.lt_def.mp hlt

/-- Settles O25: it is row T4; in a state of the invariant a delivered TXR means Transmitting, where I-c says that the
cursor is at most `length` and `length` is CAPACITY. -/
theorem txrPastLastByteEndsDrain : Obligations.TxrPastLastByteEndsDrain := by
  unfold Obligations.TxrPastLastByteEndsDrain
  intro s ha htx hle
  refine ⟨exec_txr_of_not_lt ha htx (BitVec.not_lt.mpr hle), fun hinv => ?_⟩
  obtain ⟨hmode, -⟩ := transmittingLine_of_txie hinv.lockstep htx
  obtain ⟨hfull, hcursor⟩ := hinv.draining hmode
  exact ⟨BitVec.le_antisymm hcursor hle, hfull⟩

/-- A delivered RXC has a next state. -/
theorem exec_rxc_completes {s : State} (d : Byte) (ha : s.agent = .idle) (hrx : s.rxie = true) :
    ∃ t, exec (.rxc d) s = .next t := by
  by_cases hroom : s.length < s.cfg.capacity
  · exact ⟨_, exec_rxc_of_room d ha hrx hroom⟩
  · exact ⟨_, exec_rxc_of_full d ha hrx hroom⟩

/-- A delivered TXR has a next state where `length` is at most CAPACITY. -/
theorem exec_txr_completes {s : State} (ha : s.agent = .idle) (htx : s.txie = true) (hlen : s.length ≤ s.cfg.capacity) :
    ∃ t, exec .txr s = .next t := by
  by_cases hlt : s.cursor < s.length
  · exact ⟨_, exec_txr_of_lt ha htx hlt (lt_capacity_of_lt_length hlt hlen)⟩
  · exact ⟨_, exec_txr_of_not_lt ha htx hlt⟩

/-- In the lockstep each enable bit says the mode. -/
theorem State.Lockstep.enabled_iff {s : State} (h : s.Lockstep) :
    (s.rxie = true ↔ s.mode = .receiving) ∧ (s.txie = true ↔ s.mode = .transmitting) := by
  obtain ⟨hm, hrx, htx⟩ | ⟨hm, hrx, htx⟩ := h <;> simp [hm, hrx, htx]

/-- Settles O26: an event is refused or its handler runs, as its enable bit says, and the bits of each line of the
lockstep and of reset are read off. -/
theorem eventsAreDeliveredWhenEnabled : Obligations.EventsAreDeliveredWhenEnabled := by
  unfold Obligations.EventsAreDeliveredWhenEnabled
  intro s ha
  exact ⟨fun d => exec_rxc_of_disabled d ha, exec_txr_of_disabled ha, fun d => exec_rxc_completes d ha,
    exec_txr_completes ha, State.Lockstep.enabled_iff, fun hreset => ⟨hreset.rxie, hreset.txie⟩⟩

/-- Between steps an event does what its row of the table says, and is refused where it has no row. -/
theorem exec_eq_tableStep {i : Instr} {s : State} (hp : i.port = .ev) (ha : s.agent = .idle)
    (hlen : s.length ≤ s.cfg.capacity) :
    (∃ t, tableStep i s = some t ∧ exec i s = .next t) ∨
    (tableStep i s = none ∧ ∃ why, exec i s = .refused why) := by
  cases i <;> simp only [Instr.port, reduceCtorEq] at hp
  case init =>
    by_cases h : s.rxie = false ∧ s.txie = false
    · exact .inl ⟨_, if_pos h, exec_init_of_disabled ha h.1 h.2⟩
    · exact .inr ⟨if_neg h, _, exec_init_of_enabled ha (by simpa [or_iff_not_imp_left] using h)⟩
  case rxc d =>
    cases hrx : s.rxie with
    | false => exact .inr ⟨by simp [tableStep, hrx], _, exec_rxc_of_disabled d ha hrx⟩
    | true =>
      by_cases hroom : s.length < s.cfg.capacity
      · exact .inl ⟨_, if_pos ⟨hrx, hroom⟩, exec_rxc_of_room d ha hrx hroom⟩
      · have hfull : s.length = s.cfg.capacity := BitVec.le_antisymm hlen (BitVec.not_lt.mp hroom)
        exact .inl ⟨_, by simp [tableStep, hrx, hfull], exec_rxc_of_full d ha hrx hroom⟩
  case txr =>
    cases htx : s.txie with
    | false => exact .inr ⟨by simp [tableStep, htx], _, exec_txr_of_disabled ha htx⟩
    | true =>
      by_cases hlt : s.cursor < s.length
      · exact .inl ⟨_, if_pos ⟨htx, hlt⟩, exec_txr_of_lt ha htx hlt (lt_capacity_of_lt_length hlt hlen)⟩
      · exact .inl ⟨_, by simp [tableStep, htx, hlt], exec_txr_of_not_lt ha htx hlt⟩

/-- A buffer operation and a peripheral command leave the mode. -/
theorem exec_mode_of_port_ne_ev {i : Instr} {s t : State} (hp : i.port ≠ .ev) (h : exec i s = .next t) :
    t.mode = s.mode := by
  cases hport : i.port with
  | ev => exact absurd hport hp
  | buf => rw [exec_buf_frame hport h]
  | per =>
    obtain ⟨-, d, -, rfl⟩ | ⟨b, -, -, rfl⟩ | ⟨-, rfl⟩ | ⟨-, rfl⟩ | ⟨-, rfl⟩ | ⟨-, rfl⟩ := exec_per_eq_next hport h
    all_goals rfl

/-- With the transmit interrupt disabled the mode is Receiving. -/
theorem mode_of_transmit_disabled {s : State} (h : s.Uninitialized ∨ s.Lockstep) (htx : s.txie = false) :
    s.mode = .receiving := by
  obtain ⟨hm, -⟩ | ⟨hm, -⟩ | ⟨-, -, h1⟩ := h
  · exact hm
  · exact hm
  · cases htx.symm.trans h1

/-- The mode changes exactly at T2 and T4: the events of the other rows are delivered in the mode they leave. -/
theorem exec_mode_ne_iff {i : Instr} {s t : State} (hs : s.Uninitialized ∨ s.Lockstep) (h : exec i s = .next t) :
    t.mode ≠ s.mode ↔
      (∃ d, i = .rxc d) ∧ ¬ s.length < s.cfg.capacity ∨ i = .txr ∧ ¬ s.cursor < s.length := by
  by_cases hp : i.port = .ev
  · obtain ⟨-, ⟨rfl, -, htx, rfl⟩ | ⟨d, rfl, -, hroom, rfl⟩ | ⟨d, rfl, hrx, hfull, rfl⟩ | ⟨rfl, -, hlt, -, rfl⟩ |
      ⟨rfl, htx, hge, rfl⟩⟩ := exec_ev_eq_next hp h
    · simp [mode_of_transmit_disabled hs htx]
    · simp [hroom]
    · simp [receivingLine_of_rxie hs hrx, hfull]
    · simp [hlt]
    · simp [transmittingLine_of_txie hs htx, hge]
  · have hrow : ¬ ((∃ d, i = .rxc d) ∧ ¬ s.length < s.cfg.capacity ∨ i = .txr ∧ ¬ s.cursor < s.length) := by
      rintro (⟨⟨d, rfl⟩, -⟩ | ⟨rfl, -⟩) <;> exact hp rfl
    simp only [exec_mode_of_port_ne_ev hp h, ne_eq, not_true_eq_false, hrow]

/-- Settles O30: the rows of the table one by one, and the mode after each way an operation completes. -/
theorem eventsFollowTransitionTable : Obligations.EventsFollowTransitionTable := by
  unfold Obligations.EventsFollowTransitionTable
  refine ⟨fun i s hp ha hlen => ?_, fun _ _ _ _ hs h => exec_mode_ne_iff hs h⟩
  obtain ⟨t, hrow, hexec⟩ | ⟨hrow, hexec⟩ := exec_eq_tableStep hp ha hlen
  all_goals
    rw [hrow]
    exact hexec

/-! ## A word presented between steps -/

/-- The decoder reads back what the encoder wrote (30_encoding.md R60). -/
theorem decode_encode (i : Instr) : decode (encode i) = .instr i := by
  rw [encode, decode_append]
  cases i <;> rfl

theorem formatZ_eq_instr {op : BitVec 4} {arg : Byte} {i j : Instr} (h : formatZ op arg i = .instr j) :
    arg = 0 ∧ j = i := by
  unfold formatZ at h
  split at h
  · cases h
    exact ⟨‹_›, rfl⟩
  · cases h

/-- A word that decodes to an operation is the word of that operation. -/
theorem encode_of_decode {w : OpWord} {i : Instr} (h : decode w = .instr i) : encode i = w := by
  have hop {k : BitVec 4} (hk : (opField w).toNat = k.toNat) : opField w = k := BitVec.eq_of_toNat_eq hk
  rw [← fields_append w, encode, append_inj]
  unfold decode decodeFields at h
  split at h
  -- the reserved opcodes
  case h_13 => cases h
  -- WRITE, READ, RXC and HWWR: `arg` is the operand
  case h_2 | h_3 | h_5 | h_8 =>
    cases h
    exact ⟨(hop ‹_›).symm, rfl⟩
  -- format Z: `arg` is zero
  all_goals
    obtain ⟨harg, rfl⟩ := formatZ_eq_instr h
    exact ⟨(hop ‹_›).symm, harg.symm⟩

/-- The outside may present an event: CAPACITY is legal, the state machine is there, and nobody runs. -/
abbrev State.TakesEvents (s : State) : Prop := s.cfg.capacity ≠ 0 ∧ s.cfg.level = .M ∧ s.agent = .idle

theorem accept_present {i : Instr} {s : State} (hs : s.TakesEvents) (hp : i.port = .ev) :
    accept (present i) s = .ok i := by
  obtain ⟨hc, hl, -⟩ := hs
  unfold accept
  rw [if_neg hc]
  simp [present, decode_encode, hp, portOpen, hl]

/-- The step on an event presented on its port is the event. -/
theorem step_present {i : Instr} {s : State} {rest : List Transaction} (hs : s.TakesEvents) (hp : i.port = .ev)
    (hin : s.input = present i :: rest) : step s = exec i { s with input := rest } := by
  rw [step_cons hin, accept_present hs hp]

/-- The only words with a step are the events that complete. -/
theorem step_takesEvents_eq_next {s t : State} {w : Transaction} {rest : List Transaction} (hs : s.TakesEvents)
    (hin : s.input = w :: rest) (h : step s = .next t) :
    ∃ i, i.port = .ev ∧ w = present i ∧ exec i { s with input := rest } = .next t := by
  obtain ⟨-, hl, ha⟩ := hs
  obtain ⟨hnil, -⟩ | ⟨w', rest', i, hin', hacc, hex⟩ := step_eq_next h
  · cases hin.symm.trans hnil
  · cases hin.symm.trans hin'
    obtain ⟨-, hdec, hport, hopen⟩ := accept_eq_ok hacc
    obtain ⟨hev, -⟩ | ⟨-, hB⟩ := portOpen_idle ha hopen
    · refine ⟨i, hport.trans hev, ?_, hex⟩
      rw [present, hport, encode_of_decode hdec]
    · cases hl.symm.trans hB

/-- In Receiving a word with a step is an RXC. -/
theorem step_receiving_eq_next {s t : State} {w : Transaction} {rest : List Transaction} (hs : s.TakesEvents)
    (hline : s.ReceivingLine) (hin : s.input = w :: rest) (h : step s = .next t) :
    ∃ d, w = present (.rxc d) := by
  obtain ⟨i, hp, rfl, hex⟩ := step_takesEvents_eq_next hs hin h
  obtain ⟨-, hrx, htx⟩ := hline
  obtain ⟨-, ⟨-, hrx', -⟩ | ⟨d, rfl, -⟩ | ⟨d, rfl, -⟩ | ⟨-, htx', -⟩ | ⟨-, htx', -⟩⟩ := exec_ev_eq_next hp hex
  · cases hrx.symm.trans hrx'
  · exact ⟨d, rfl⟩
  · exact ⟨d, rfl⟩
  · cases htx.symm.trans htx'
  · cases htx.symm.trans htx'

/-- In Transmitting a word with a step is a TXR. -/
theorem step_transmitting_eq_next {s t : State} {w : Transaction} {rest : List Transaction} (hs : s.TakesEvents)
    (hline : s.TransmittingLine) (hin : s.input = w :: rest) (h : step s = .next t) : w = present .txr := by
  obtain ⟨i, hp, rfl, hex⟩ := step_takesEvents_eq_next hs hin h
  obtain ⟨-, hrx, htx⟩ := hline
  obtain ⟨-, ⟨-, -, htx', -⟩ | ⟨d, -, hrx', -⟩ | ⟨d, -, hrx', -⟩ | ⟨rfl, -⟩ | ⟨rfl, -⟩⟩ := exec_ev_eq_next hp hex
  · cases htx.symm.trans htx'
  · cases hrx.symm.trans hrx'
  · cases hrx.symm.trans hrx'
  · rfl
  · rfl

/-! ## The steps of a cycle: the rows T1 to T4 in the lockstep -/

section
variable {s : State} {rest : List Transaction} (hs : s.TakesEvents)
include hs

theorem step_rxc_of_room {d : Byte} (hline : s.ReceivingLine) (hroom : s.length < s.cfg.capacity)
    (hin : s.input = present (.rxc d) :: rest) :
    step s = .next { s with storage := s.storage.store s.length.toNat d, length := s.length + 1,
                            cmdOut := s.cmdOut ++ [.hwrd], rsp := none, input := rest } := by
  obtain ⟨-, hrx, -⟩ := hline
  have ⟨_, _, ha⟩ := hs
  exact (step_present hs rfl hin).trans (exec_rxc_of_room (s := { s with input := rest }) d ha hrx hroom)

theorem step_rxc_of_full {d : Byte} (hline : s.ReceivingLine) (hfull : ¬ s.length < s.cfg.capacity)
    (hin : s.input = present (.rxc d) :: rest) :
    step s = .next { s with rxie := false, txie := true, cursor := 0, mode := .transmitting,
                            cmdOut := s.cmdOut ++ [.hwrd, .disrx, .entx], dropLog := s.dropLog ++ [d], rsp := none,
                            input := rest } := by
  obtain ⟨-, hrx, -⟩ := hline
  have ⟨_, _, ha⟩ := hs
  exact (step_present hs rfl hin).trans (exec_rxc_of_full (s := { s with input := rest }) d ha hrx hfull)

theorem step_txr_of_lt (hline : s.TransmittingLine) (hlt : s.cursor < s.length) (hlen : s.length ≤ s.cfg.capacity)
    (hin : s.input = present .txr :: rest) :
    step s = .next { s with cursor := s.cursor + 1, txOut := s.txOut ++ [Ops.cell s s.cursor.toNat],
                            cmdOut := s.cmdOut ++ [.hwwr (Ops.cell s s.cursor.toNat)], rsp := none,
                            input := rest } := by
  obtain ⟨-, -, htx⟩ := hline
  have ⟨_, _, ha⟩ := hs
  exact (step_present hs rfl hin).trans
    (exec_txr_of_lt (s := { s with input := rest }) ha htx hlt (lt_capacity_of_lt_length hlt hlen))

theorem step_txr_of_not_lt (hline : s.TransmittingLine) (hge : ¬ s.cursor < s.length)
    (hin : s.input = present .txr :: rest) :
    step s = .next { s with length := 0, txie := false, rxie := true, mode := .receiving,
                            cmdOut := s.cmdOut ++ [.distx, .enrx], rsp := none, input := rest } := by
  obtain ⟨-, -, htx⟩ := hline
  have ⟨_, _, ha⟩ := hs
  exact (step_present hs rfl hin).trans (exec_txr_of_not_lt (s := { s with input := rest }) ha htx hge)

end

/-! ## The cycle (R88)

A drain and a fill with the drain behind it, each read in both directions: what the words of the law do, and that words
which all have a step are those of the law. -/

/-- A run that completes on as many words as steps begins with a step on the first word. -/
theorem run_words_eq_next {k : Nat} {s t : State} (h : core.run (k + 1) s = .next t)
    (hwords : s.input.length = k + 1) :
    ∃ w rest u, s.input = w :: rest ∧ rest.length = k ∧ step s = .next u ∧ core.run k u = .next t := by
  obtain ⟨w, rest, hin⟩ := List.exists_cons_of_length_eq_add_one hwords
  rw [run_succ] at h
  cases hstep : step s <;> rw [hstep] at h
  case next u => exact ⟨w, rest, u, hin, by simpa [hin] using hwords, rfl, h⟩
  all_goals cases h

theorem run_succ_of_step {k : Nat} {s u : State} (h : step s = .next u) : core.run (k + 1) s = core.run k u := by
  rw [run_succ, h]

theorem drain_succ (n : Nat) : drain (n + 1) = present .txr :: drain n := rfl

/-- As many TXRs as there are cells from the cursor on send their bytes, and one more returns to Receiving. -/
theorem run_drain {bs : List Byte} {s : State} (hs : s.TakesEvents) (hline : s.TransmittingLine)
    (hlen : s.length ≤ s.cfg.capacity) (hbs : s.entries.drop s.cursor.toNat = bs)
    (hin : s.input = drain (bs.length + 1)) :
    ∃ c, core.run (bs.length + 1) s =
      .next { s with length := 0, cursor := c, mode := .receiving, rxie := true, txie := false,
                     cmdOut := s.cmdOut ++ bs.map .hwwr ++ [.distx, .enrx], txOut := s.txOut ++ bs, rsp := none,
                     input := [] } := by
  induction bs generalizing s with
  | nil =>
    have hge : ¬ s.cursor < s.length := by
      rw [List.drop_eq_nil_iff, State.entries_length] at hbs
      exact BitVec.not_lt.mpr (BitVec.le_def.mpr hbs)
    refine ⟨s.cursor, ?_⟩
    rw [List.length_nil, run_succ_of_step (step_txr_of_not_lt hs hline hge hin)]
    simp [Host.Core.run]
  | cons b bs ih =>
    have hcur : s.cursor.toNat < s.entries.length := by
      refine Nat.lt_of_not_le fun hle => ?_
      rw [List.drop_eq_nil_of_le hle] at hbs
      cases hbs
    rw [List.drop_eq_getElem_cons hcur, List.cons.injEq] at hbs
    obtain ⟨hb, htail⟩ := hbs
    have hcell : Ops.cell s s.cursor.toNat = b := by simpa [State.entries] using hb
    have hlt : s.cursor < s.length := BitVec.lt_def.mpr (s.entries_length ▸ hcur)
    have hstep := step_txr_of_lt hs hline hlt hlen hin
    rw [hcell] at hstep
    obtain ⟨c, hrun⟩ := ih (s := { s with
      cursor := s.cursor + 1, txOut := s.txOut ++ [b], cmdOut := s.cmdOut ++ [.hwwr b], rsp := none,
      input := drain (bs.length + 1) }) hs hline hlen (toNat_succ_of_lt hlt ▸ htail) rfl
    refine ⟨c, (run_succ_of_step hstep).trans (hrun.trans ?_)⟩
    simp

/-- As many RXCs as there is room for store their bytes, one more starts the drain, and the drain sends the entries. -/
theorem run_fill {ds : List Byte} {d : Byte} {s : State} (hs : s.TakesEvents) (hline : s.ReceivingLine)
    (hroom : s.length.toNat + ds.length = s.cfg.capacity.toNat)
    (hin : s.input = rxs ds ++ rxs [d] ++ drain (s.cfg.capacity.toNat + 1)) :
    ∃ m c, core.run (s.cfg.capacity.toNat + 1 + ds.length + 1) s =
      .next { s with storage := m, length := 0, cursor := c,
                     cmdOut := s.cmdOut ++ List.replicate ds.length .hwrd ++ [.hwrd, .disrx, .entx] ++
                       (s.entries ++ ds).map .hwwr ++ [.distx, .enrx],
                     txOut := s.txOut ++ (s.entries ++ ds), dropLog := s.dropLog ++ [d], rsp := none,
                     input := [] } := by
  induction ds generalizing s with
  | nil =>
    have hfull : s.length = s.cfg.capacity := BitVec.eq_of_toNat_eq hroom
    have hstep := step_rxc_of_full hs hline (hfull ▸ BitVec.lt_irrefl _) hin
    have hentries : s.entries.length = s.cfg.capacity.toNat := s.entries_length.trans hroom
    obtain ⟨c, hrun⟩ := run_drain (bs := s.entries) (s := { s with
      rxie := false, txie := true, cursor := 0, mode := .transmitting, cmdOut := s.cmdOut ++ [.hwrd, .disrx, .entx],
      dropLog := s.dropLog ++ [d], rsp := none, input := drain (s.cfg.capacity.toNat + 1) })
      hs ⟨rfl, rfl, rfl⟩ (hfull ▸ BitVec.le_refl _) rfl (hentries ▸ rfl)
    rw [hentries] at hrun
    refine ⟨s.storage, c, (run_succ_of_step hstep).trans (hrun.trans ?_)⟩
    obtain ⟨hm, hrx, htx⟩ := hline
    simp [hm, hrx, htx]
  | cons b bs ih =>
    rw [List.length_cons] at hroom
    have hlt : s.length < s.cfg.capacity := BitVec.lt_def.mpr (by omega)
    have hsucc := toNat_succ_of_lt hlt
    obtain ⟨m, c, hrun⟩ := ih (s := { s with
      storage := s.storage.store s.length.toNat b, length := s.length + 1, cmdOut := s.cmdOut ++ [.hwrd], rsp := none,
      input := rxs bs ++ rxs [d] ++ drain (s.cfg.capacity.toNat + 1) }) hs hline (by
        simp only [hsucc]
        omega) rfl
    rw [State.entries_append rfl hsucc] at hrun
    refine ⟨m, c, (run_succ_of_step (step_rxc_of_room hs hline hlt hin)).trans (hrun.trans ?_)⟩
    simp [List.replicate_succ]

/-- In Transmitting, words with a step up to the end of the drain are TXRs. -/
theorem input_of_run_drain {n : Nat} {s t : State} (h : core.run n s = .next t) (hs : s.TakesEvents)
    (hline : s.TransmittingLine) (hlen : s.length ≤ s.cfg.capacity) (hn : s.cursor.toNat + n ≤ s.length.toNat + 1)
    (hwords : s.input.length = n) : s.input = drain n := by
  induction n generalizing s with
  | zero => exact List.eq_nil_of_length_eq_zero hwords
  | succ n ih =>
    obtain ⟨w, rest, u, hin, hrest, hstep, hrun⟩ := run_words_eq_next h hwords
    obtain rfl := step_transmitting_eq_next hs hline hin hstep
    rw [hin, drain_succ, List.cons_inj_right]
    by_cases hlt : s.cursor < s.length
    · rw [step_txr_of_lt hs hline hlt hlen hin] at hstep
      cases hstep
      refine ih hrun hs hline hlen ?_ hrest
      simp only [toNat_succ_of_lt hlt]
      omega
    · have hge := mt BitVec.lt_def.mpr hlt
      obtain rfl : n = 0 := by omega
      exact List.eq_nil_of_length_eq_zero hrest

/-- In Receiving, words with a step up to the end of the next drain are RXCs until the overflow, and TXRs. -/
theorem input_of_run_fill {n : Nat} {s t : State} (h : core.run (s.cfg.capacity.toNat + 1 + n + 1) s = .next t)
    (hs : s.TakesEvents) (hline : s.ReceivingLine) (hroom : s.length.toNat + n = s.cfg.capacity.toNat)
    (hwords : s.input.length = s.cfg.capacity.toNat + 1 + n + 1) :
    ∃ ds d, ds.length = n ∧ s.input = rxs ds ++ rxs [d] ++ drain (s.cfg.capacity.toNat + 1) := by
  induction n generalizing s with
  | zero =>
    have hfull : s.length = s.cfg.capacity := BitVec.eq_of_toNat_eq hroom
    obtain ⟨w, rest, u, hin, hrest, hstep, hrun⟩ := run_words_eq_next h hwords
    obtain ⟨d, rfl⟩ := step_receiving_eq_next hs hline hin hstep
    rw [step_rxc_of_full hs hline (hfull ▸ BitVec.lt_irrefl _) hin] at hstep
    cases hstep
    have hdrain := input_of_run_drain hrun hs ⟨rfl, rfl, rfl⟩ (hfull ▸ BitVec.le_refl _) (by simp [hfull]) hrest
    exact ⟨[], d, rfl, hin.trans (congrArg _ hdrain)⟩
  | succ n ih =>
    have hlt : s.length < s.cfg.capacity := BitVec.lt_def.mpr (by omega)
    obtain ⟨w, rest, u, hin, hrest, hstep, hrun⟩ := run_words_eq_next h hwords
    obtain ⟨b, rfl⟩ := step_receiving_eq_next hs hline hin hstep
    rw [step_rxc_of_room hs hline hlt hin] at hstep
    cases hstep
    obtain ⟨ds, d, hds, hfill⟩ := ih hrun hs hline (by
      simp only [toNat_succ_of_lt hlt]
      omega) hrest
    exact ⟨b :: ds, d, congrArg _ hds, hin.trans (congrArg _ hfill)⟩

/-- Settles O33: a fill from an empty buffer and the drain behind it, in both directions. -/
theorem fullCycleEchoesAndDropsOne : Obligations.FullCycleEchoesAndDropsOne := by
  unfold Obligations.FullCycleEchoesAndDropsOne
  intro s hc hl ha hline hempty
  have hsteps : 2 * s.cfg.capacity.toNat + 2 = s.cfg.capacity.toNat + 1 + s.cfg.capacity.toNat + 1 := by omega
  rw [hsteps]
  refine ⟨fun ds d hds => ?_, fun es t hwords hrun => ?_⟩
  · obtain ⟨m, c, hrun⟩ := run_fill (ds := ds) (d := d)
      (s := { s with input := rxs ds ++ rxs [d] ++ drain (s.cfg.capacity.toNat + 1) }) ⟨hc, hl, ha⟩ hline
      (by simpa [hempty] using hds) rfl
    rw [hds] at hrun
    refine ⟨_, hrun, hline, rfl, ha, rfl, ?_, rfl, ?_⟩ <;> simp [State.entries_eq_nil, hempty]
  · exact input_of_run_fill (s := { s with input := es }) hrun ⟨hc, hl, ha⟩ hline (by simp [hempty]) hwords

end Sys2Proof.Machine

/-! # Words and operations (30_encoding.md)

A word is the operation of a row exactly when its opcode is the row's, and in format Z its `arg` is zero; the reserved
words are the rest. -/

namespace Sys2Proof.Machine

/-! ## The rows of the opcode map (R53) -/

/-- Settles O1: the decoder reads back both fields of the word of an operation. -/
theorem decodeEncodeAllOperations : Obligations.DecodeEncodeAllOperations := by
  unfold Obligations.DecodeEncodeAllOperations
  exact decode_encode

/-- Settles O2: a word that decodes to an operation has that operation's opcode and operand. -/
theorem encodeDecodeEveryWord : Obligations.EncodeDecodeEveryWord := by
  unfold Obligations.EncodeDecodeEveryWord
  exact fun _ _ => encode_of_decode

theorem formatOperand : ∀ i : Instr, Laws.FormatOperand.Statement i
  | .clear => Laws.FormatOperand.clear
  | .write b => Laws.FormatOperand.write b
  | .read k => Laws.FormatOperand.read k
  | .init => Laws.FormatOperand.init
  | .rxc d => Laws.FormatOperand.rxc d
  | .txr => Laws.FormatOperand.txr
  | .hwrd => Laws.FormatOperand.hwrd
  | .hwwr b => Laws.FormatOperand.hwwr b
  | .enrx => Laws.FormatOperand.enrx
  | .disrx => Laws.FormatOperand.disrx
  | .entx => Laws.FormatOperand.entx
  | .distx => Laws.FormatOperand.distx

/-- A word has the match of a row under the row's mask when it has the row's opcode and, in format Z, a zero `arg`. -/
theorem matches_row_iff (w : OpWord) (i : Instr) :
    w &&& i.mask = i.matchBits ↔ opField w = i.opcode ∧ (formatOf i = .Z → argField w = 0) := by
  obtain ⟨hZ, hnZ⟩ := formatOperand i
  rw [matchBits_eq, ← fields_append w]
  by_cases hf : formatOf i = .Z
  · rw [(hZ hf).1, mask_all, append_inj]
    simp [hf]
  · rw [hnZ hf, append_mask_op, append_inj]
    simp [hf]

theorem formatZ_isInstr_iff {op : BitVec 4} {arg : Byte} {i : Instr} :
    (∃ j, formatZ op arg i = .instr j) ↔ arg = 0 := by
  unfold formatZ
  split
  case isTrue h => exact iff_of_true ⟨i, rfl⟩ h
  case isFalse h => exact iff_of_false (fun ⟨_, hj⟩ => by cases hj) h

/-- A word with the opcode of a row decodes to an operation unless the row is of format Z and `arg` is not zero. -/
theorem decodeFields_opcode_isInstr_iff (i : Instr) (arg : Byte) :
    (∃ j, decodeFields i.opcode arg = .instr j) ↔ (formatOf i = .Z → arg = 0) := by
  cases i
  case write | read | rxc | hwwr => simp [formatOf, decodeFields, Instr.opcode]
  all_goals exact formatZ_isInstr_iff.trans (by simp [formatOf])

/-- Settles O3: both sides say that the opcode is that of the row and that `arg` is zero where the row is of format Z;
the two fields of the operation decoded are those of the word. -/
theorem wordMatchesItsRowOnly : Obligations.WordMatchesItsRowOnly := by
  unfold Obligations.WordMatchesItsRowOnly
  intro w i
  rw [matches_row_iff]
  constructor
  · rintro ⟨hop, hZ⟩
    obtain ⟨j, hj⟩ := (decodeFields_opcode_isInstr_iff i (argField w)).mpr hZ
    rw [← hop] at hj
    have hw : encode j = w := encode_of_decode hj
    exact ⟨j, hj, by rw [← hop, ← hw, opField_encode], by rw [← hw, argField_encode]⟩
  · rintro ⟨j, hj, hop, -⟩
    have hopw : opField w = i.opcode := by rw [← encode_of_decode hj, opField_encode, hop]
    refine ⟨hopw, (decodeFields_opcode_isInstr_iff i (argField w)).mp ⟨j, ?_⟩⟩
    rw [← hopw]
    exact hj

/-! ## The reserved words (R57) -/

/-- The opcodes of no row: 0x3, 0x7, 0xE, 0xF. -/
abbrev NoRowOpcode (op : BitVec 4) : Prop := op = 0x3 ∨ op = 0x7 ∨ op = 0xE ∨ op = 0xF

/-- The opcodes of the format-Z rows. -/
abbrev FormatZOpcode (op : BitVec 4) : Prop :=
  op = 0x0 ∨ op = 0x4 ∨ op = 0x6 ∨ op = 0x8 ∨ op = 0xA ∨ op = 0xB ∨ op = 0xC ∨ op = 0xD

/-- The opcodes of formats D and X. -/
abbrev OperandOpcode (op : BitVec 4) : Prop := op = 0x1 ∨ op = 0x2 ∨ op = 0x5 ∨ op = 0x9

theorem opcode_cases (op : BitVec 4) : NoRowOpcode op ∨ FormatZOpcode op ∨ OperandOpcode op := by
  revert op
  decide

theorem formatZ_isReserved_iff {op : BitVec 4} {arg : Byte} {i : Instr} :
    (∃ why, formatZ op arg i = .reserved why) ↔ arg ≠ 0 := by
  unfold formatZ
  split
  case isTrue h => exact iff_of_false (fun ⟨_, hwhy⟩ => by cases hwhy) (not_not_intro h)
  case isFalse h => exact iff_of_true ⟨_, rfl⟩ h

/-- The decoder refuses exactly the two kinds of words of R57. -/
theorem decodeFields_isReserved_iff (op : BitVec 4) (arg : Byte) :
    (∃ why, decodeFields op arg = .reserved why) ↔ NoRowOpcode op ∨ FormatZOpcode op ∧ arg ≠ 0 := by
  obtain hno | hZ | hoperand := opcode_cases op
  · refine iff_of_true ?_ (.inl hno)
    obtain rfl | rfl | rfl | rfl := hno <;> exact ⟨_, rfl⟩
  · obtain rfl | rfl | rfl | rfl | rfl | rfl | rfl | rfl := hZ
    all_goals exact formatZ_isReserved_iff.trans (by simp [NoRowOpcode, FormatZOpcode])
  · obtain rfl | rfl | rfl | rfl := hoperand
    all_goals simp [decodeFields, NoRowOpcode, FormatZOpcode]

/-! ## How many there are -/

def isReserved : Decoded → Bool
  | .reserved _ => true
  | .instr _ => false

theorem isReserved_iff {d : Decoded} : isReserved d = true ↔ ∃ why, d = .reserved why := by
  cases d <;> simp [isReserved]

/-- The number of reserved words of one opcode. -/
def reservedOf (op : BitVec 4) : Nat :=
  (List.range 256).countP fun arg => isReserved (decodeFields op (BitVec.ofNat 8 arg))

/-- All 256 words of an opcode of no row are reserved, all but one of format Z, none of formats D and X. -/
theorem reservedOf_eq (op : BitVec 4) :
    reservedOf op = if NoRowOpcode op then 256 else if FormatZOpcode op then 255 else 0 := by
  have hpred (arg : Nat) : isReserved (decodeFields op (BitVec.ofNat 8 arg)) =
      decide (NoRowOpcode op ∨ FormatZOpcode op ∧ BitVec.ofNat 8 arg ≠ 0) := by
    rw [Bool.eq_iff_iff, isReserved_iff, decodeFields_isReserved_iff, decide_eq_true_iff]
  simp only [reservedOf, hpred]
  by_cases hno : NoRowOpcode op
  · simp [hno]
  · by_cases hZ : FormatZOpcode op
    · simp only [hno, hZ, false_or, true_and, if_false, if_true]
      set_option maxRecDepth 2000 in rfl
    · simp [hno, hZ]

theorem decode_ofNat {op arg : Nat} (h : arg < 256) :
    decode (BitVec.ofNat 12 (256 * op + arg)) = decodeFields (BitVec.ofNat 4 op) (BitVec.ofNat 8 arg) := by
  have hword : BitVec.ofNat 12 (256 * op + arg) = BitVec.ofNat 4 op ++ BitVec.ofNat 8 arg := by
    apply BitVec.eq_of_toNat_eq
    rw [BitVec.toNat_append, ← Nat.shiftLeft_add_eq_or_of_lt (BitVec.isLt _), Nat.shiftLeft_eq]
    simp only [BitVec.toNat_ofNat]
    omega
  rw [hword, decode_append]

/-- A count over `m` blocks of `n` numbers is the sum of the counts over each. -/
theorem countP_range_mul (p : Nat → Bool) (n m : Nat) :
    (List.range (n * m)).countP p =
      ((List.range m).map fun block => (List.range n).countP fun k => p (n * block + k)).sum := by
  induction m with
  | zero => rfl
  | succ m ih =>
    rw [Nat.mul_succ, List.range_add, List.countP_append, List.countP_map, ih, List.range_succ]
    simp [Function.comp_def]

theorem countP_isReserved : (List.range 4096).countP (fun n => isReserved (decode (BitVec.ofNat 12 n))) = 3064 := by
  have hblock (op : Nat) :
      ((List.range 256).countP fun arg => isReserved (decode (BitVec.ofNat 12 (256 * op + arg)))) =
        reservedOf (BitVec.ofNat 4 op) :=
    List.countP_congr fun arg harg => by rw [decode_ofNat (List.mem_range.mp harg)]
  rw [show 4096 = 256 * 16 from rfl, countP_range_mul]
  simp only [hblock, reservedOf_eq]
  decide

/-- Settles O4: the two kinds of reserved words, their number opcode by opcode, and the three codes of a status. -/
theorem reservedWordsAreThose : Obligations.ReservedWordsAreThose := by
  unfold Obligations.ReservedWordsAreThose
  refine ⟨fun w => decodeFields_isReserved_iff (opField w) (argField w), countP_isReserved, fun st => ?_⟩
  cases st <;> decide

/-- Settles O5: six words are those of operations, and two are of the two reserved kinds. -/
theorem workedWordsDecode : Obligations.WorkedWordsDecode := by
  unfold Obligations.WorkedWordsDecode
  exact ⟨decode_encode (.write 0x41), decode_encode (.read 3), decode_encode (.rxc 0x45), decode_encode .txr,
    decode_encode (.hwwr 0x44), decode_encode .entx, rfl, rfl⟩

end Sys2Proof.Machine

/-! # The step (30_encoding.md R54, R57, R58)

Which word is accepted on which port, and what a step or a refusal leaves as it was. -/

namespace Sys2Proof.Machine

/-! ## Acceptance -/

/-- The ports that are open: EV at level M; BUF at level B or while somebody runs; PER at level M while somebody
runs. -/
theorem portOpen_iff {p : Port} {s : State} :
    portOpen p s = true ↔
      p = .ev ∧ s.cfg.level = .M ∨ p = .buf ∧ (s.cfg.level = .B ∨ s.agent ≠ .idle) ∨
        p = .per ∧ s.cfg.level = .M ∧ s.agent ≠ .idle := by
  cases p <;> cases hl : s.cfg.level <;> simp [portOpen, hl]

/-- A word that decodes to an operation is refused for its port alone. -/
theorem accept_of_decode {w : Transaction} {s : State} {i : Instr} (hc : s.cfg.capacity ≠ 0)
    (hd : decode w.word = .instr i) :
    accept w s =
      if i.port = w.port then if portOpen w.port s then .ok i else .error (.portClosed w.port w.word)
      else .error (.wrongPort w.port w.word) := by
  unfold accept
  rw [if_neg hc, hd]

theorem accept_of_reserved {w : Transaction} {s : State} {why : Reserved} (hc : s.cfg.capacity ≠ 0)
    (hd : decode w.word = .reserved why) : accept w s = .error (.reservedWord w.word why) := by
  unfold accept
  rw [if_neg hc, hd]

theorem step_of_ok {s : State} {w : Transaction} {rest : List Transaction} {i : Instr} (hin : s.input = w :: rest)
    (h : accept w s = .ok i) : step s = exec i { s with input := rest } := by
  rw [step_cons hin, h]

theorem step_of_error {s : State} {w : Transaction} {rest : List Transaction} {why : Refusal}
    (hin : s.input = w :: rest) (h : accept w s = .error why) : step s = .refused why := by
  rw [step_cons hin, h]

theorem step_of_nil {s : State} (hin : s.input = []) : step s = .next s := by
  simp only [step, takeTransaction, hin, idleLoop]

/-- Settles O6: the port is one of those of `portOpen_iff`, so the word is accepted. -/
theorem stepRunsPresentedOperation : Obligations.StepRunsPresentedOperation := by
  unfold Obligations.StepRunsPresentedOperation
  refine ⟨fun s w rest i hin hc hd hport hev hbuf hper => step_of_ok hin ?_, fun _ => step_of_nil⟩
  have hopen : portOpen i.port s = true := portOpen_iff.mpr (by
    cases hp : i.port with
    | ev => exact .inl ⟨rfl, hev hp⟩
    | buf => exact .inr (.inl ⟨rfl, hbuf hp⟩)
    | per => exact .inr (.inr ⟨rfl, hper hp⟩))
  rw [accept_of_decode hc hd, hport, if_pos rfl, if_pos hopen]

/-- A word on its own port while that port is closed is refused. -/
theorem step_of_portClosed {s : State} {w : Transaction} {rest : List Transaction} {i : Instr}
    (hin : s.input = w :: rest) (hc : s.cfg.capacity ≠ 0) (hd : decode w.word = .instr i) (hport : w.port = i.port)
    (hclosed : ¬ portOpen i.port s = true) : step s = .refused (.portClosed w.port w.word) := by
  refine step_of_error hin ?_
  rw [accept_of_decode hc hd, hport, if_pos rfl, if_neg hclosed]

/-- Settles O7: one refusal for each ground, in the order `accept` looks for them. -/
theorem unacceptedWordsHaveNoStep : Obligations.UnacceptedWordsHaveNoStep := by
  unfold Obligations.UnacceptedWordsHaveNoStep
  refine ⟨fun s w rest hin hc => step_of_error hin (if_pos hc), fun s w rest hin hc =>
    ⟨fun why hd => step_of_error hin (accept_of_reserved hc hd), fun i hd => ⟨fun hport => ?_, ?_, ?_⟩⟩⟩
  · exact step_of_error hin ((accept_of_decode hc hd).trans (if_neg (Ne.symm hport)))
  · intro hport hl ha hev
    exact step_of_portClosed hin hc hd hport (by simp [portOpen_iff, hl, ha, hev])
  · intro hport hl hbuf
    exact step_of_portClosed hin hc hd hport (by simp [portOpen_iff, hl, hbuf])

/-! ## Refusals in a run -/

theorem Run.present_of_refused {r : Run} {w : Transaction} {why : Refusal} (hf : r.fault = none)
    (h : step (r.state.setInput [w]) = .refused why) : r.present w = { r with refused := r.refused ++ [w] } := by
  simp only [Run.present, hf, h]

/-- A word presented to a run leaves its marks and adds one at most. -/
theorem Run.present_keeps_marks (r : Run) (w : Transaction) : r.refused <+: (r.present w).refused := by
  unfold Run.present
  split
  · exact ⟨[], List.append_nil _⟩
  · split
    · exact ⟨[], List.append_nil _⟩
    · exact ⟨[w], rfl⟩
    · exact ⟨[], List.append_nil _⟩

theorem Run.presentAll_keeps_marks (r : Run) (ws : List Transaction) : r.refused <+: (r.presentAll ws).refused := by
  induction ws generalizing r with
  | nil => exact ⟨[], List.append_nil _⟩
  | cons w ws ih => exact (r.present_keeps_marks w).trans (ih (r.present w))

/-- Settles O8: a refused word adds its mark and nothing else, and later words leave the marks so far in place. -/
theorem refusalIsMarkedForTheRun : Obligations.RefusalIsMarkedForTheRun := by
  unfold Obligations.RefusalIsMarkedForTheRun
  refine ⟨fun r w why hf h => ?_, fun r ws => ?_⟩
  · rw [Run.present_of_refused hf h]
    exact ⟨rfl, rfl, hf, rfl⟩
  · obtain ⟨more, hmore⟩ := r.presentAll_keeps_marks ws
    exact ⟨more, hmore.symm⟩

/-! ## The operation presented -/

theorem State.presented_of_accept {s : State} {w : Transaction} {rest : List Transaction} {i : Instr}
    (hin : s.input = w :: rest) (h : accept w s = .ok i) : s.presented = some i := by
  obtain ⟨-, hdec, -, -⟩ := accept_eq_ok h
  simp only [State.presented, hin, hdec]

/-- A step that answers a next state idles, or runs the operation presented, whose port is open. -/
theorem step_eq_next_presented {s t : State} (h : step s = .next t) :
    (s.input = [] ∧ t = s) ∨ ∃ i, s.presented = some i ∧ portOpen i.port s = true ∧
      exec i { s with input := s.input.tail } = .next t := by
  obtain ⟨hnil, rfl⟩ | ⟨w, rest, i, hin, hacc, hex⟩ := step_eq_next h
  · exact .inl ⟨hnil, rfl⟩
  · obtain ⟨-, -, hport, hopen⟩ := accept_eq_ok hacc
    exact .inr ⟨i, State.presented_of_accept hin hacc, hport ▸ hopen, by rw [hin]; exact hex⟩

/-- A peripheral command changes the enable bits, two traces, who runs and the response at most. -/
theorem exec_per_frame {i : Instr} {s t : State} (hp : i.port = .per) (h : exec i s = .next t) :
    t = { s with rxie := t.rxie, txie := t.txie, cmdOut := t.cmdOut, txOut := t.txOut, agent := t.agent,
                 rsp := t.rsp } := by
  obtain ⟨-, d, -, rfl⟩ | ⟨b, -, -, rfl⟩ | ⟨-, rfl⟩ | ⟨-, rfl⟩ | ⟨-, rfl⟩ | ⟨-, rfl⟩ := exec_per_eq_next hp h
  all_goals rfl

/-- No operation changes the configuration or takes a word from the input. -/
theorem exec_cfg_input {i : Instr} {s t : State} (h : exec i s = .next t) : t.cfg = s.cfg ∧ t.input = s.input := by
  cases hp : i.port with
  | ev =>
    obtain ⟨hcfg, hin, -, -⟩ := exec_ev_frame hp h
    exact ⟨hcfg, hin⟩
  | buf =>
    rw [exec_buf_frame hp h]
    exact ⟨rfl, rfl⟩
  | per =>
    rw [exec_per_frame hp h]
    exact ⟨rfl, rfl⟩

/-- Settles O9: the step takes the word, and no operation takes another one or changes the configuration. -/
theorem stepKeepsConfigurationAndTakesOneWord : Obligations.StepKeepsConfigurationAndTakesOneWord := by
  unfold Obligations.StepKeepsConfigurationAndTakesOneWord
  intro s t h
  obtain ⟨hnil, rfl⟩ | ⟨i, -, -, hex⟩ := step_eq_next_presented h
  · exact ⟨rfl, by rw [hnil, List.tail_nil]⟩
  · exact exec_cfg_input hex

/-- Settles O50: at level B only BUF is open, and a buffer operation has none of these fields. -/
theorem levelBTouchesBufferOnly : Obligations.LevelBTouchesBufferOnly := by
  unfold Obligations.LevelBTouchesBufferOnly
  intro s t hl h
  obtain ⟨-, rfl⟩ | ⟨i, -, hopen, hex⟩ := step_eq_next_presented h
  · exact ⟨rfl, rfl, rfl, rfl, rfl, rfl, rfl⟩
  · have hp : i.port = .buf := by
      obtain ⟨-, hM⟩ | ⟨hp, -⟩ | ⟨-, hM, -⟩ := portOpen_iff.mp hopen
      · cases hl.symm.trans hM
      · exact hp
      · cases hl.symm.trans hM
    rw [exec_buf_frame hp hex]
    exact ⟨rfl, rfl, rfl, rfl, rfl, rfl, rfl⟩

end Sys2Proof.Machine

/-! # CLEAR, WRITE and READ (40_fixedbuffer.md R70 to R72)

The byte stored and the cells around it, the fault of an index outside storage, and the frame of the three
operations. -/

namespace Sys2Proof.Machine

/-! ## The cells after a store -/

theorem cell_of_store_same {s t : State} {a : Nat} {b : Byte} (hmem : t.storage = s.storage.store a b) :
    Ops.cell t a = b := by
  simp [Ops.cell, hmem, Memory.find_store_same]

theorem cell_of_store_other {s t : State} {a k : Nat} {b : Byte} (hmem : t.storage = s.storage.store a b)
    (h : k ≠ a) : Ops.cell t k = Ops.cell s k := by
  simp [Ops.cell, hmem, Memory.find_store_other _ _ h]

/-! ## What each answers -/

/-- Settles O10: the meaning of CLEAR is that one update. -/
theorem clearEmptiesBuffer : Obligations.ClearEmptiesBuffer := by
  unfold Obligations.ClearEmptiesBuffer
  exact exec_clear

/-- Settles O11: the byte is stored at `length`, which is below CAPACITY and so has a next value. -/
theorem writeAppendsAtLength : Obligations.WriteAppendsAtLength := by
  unfold Obligations.WriteAppendsAtLength
  intro b s hroom
  exact ⟨_, exec_write_of_room b hroom, rfl, toNat_succ_of_lt hroom, cell_of_store_same rfl,
    fun _ ha => cell_of_store_other rfl ha⟩

/-- Settles O12: there is no room at or above CAPACITY. -/
theorem writeOnFullChangesNothing : Obligations.WriteOnFullChangesNothing := by
  unfold Obligations.WriteOnFullChangesNothing
  exact fun b s hfull => exec_write_of_full b (BitVec.not_lt.mpr hfull)

/-- Settles O13: a valid index is an index of storage, and one that is not valid answers OutOfRange. -/
theorem readAnswersByteOrOutOfRange : Obligations.ReadAnswersByteOrOutOfRange := by
  unfold Obligations.ReadAnswersByteOrOutOfRange
  exact fun k s => ⟨fun hk hs => exec_read_in_range hk (lt_capacity_of_lt_length hk hs),
    fun hk => exec_read_out_of_range (BitVec.not_lt.mpr hk)⟩

theorem exec_read_outside {s : State} {k : Idx} (h : k < s.length) (hc : ¬ k < s.cfg.capacity) :
    exec (.read k) s = .fault (.outsideStorage k.toNat) := by
  simp only [exec, execRead, Ops.bufRead_outside h hc, andThen_fault]

theorem exec_txr_outside {s : State} (ha : s.agent = .idle) (htx : s.txie = true) (h : s.cursor < s.length)
    (hc : ¬ s.cursor < s.cfg.capacity) : exec .txr s = .fault (.outsideStorage s.cursor.toNat) := by
  have hread : Ops.bufRead (Ops.enterHandler (.txh false) s).cursor (Ops.enterHandler (.txh false) s) =
      .fault (.outsideStorage s.cursor.toNat) := Ops.bufRead_outside h hc
  rw [exec_txr_of_enabled ha htx, transmitHandler, hread, andThen_fault]

/-- Settles O14: READ and the READ inside TXR reach a cell that does not exist. -/
theorem readBeyondCapacityFaults : Obligations.ReadBeyondCapacityFaults := by
  unfold Obligations.ReadBeyondCapacityFaults
  exact ⟨fun k s hk hc => exec_read_outside hk (BitVec.not_lt.mpr hc),
    fun s ha htx hlt hc => exec_txr_outside ha htx hlt (BitVec.not_lt.mpr hc)⟩

/-! ## The frame -/

/-- Settles O15: the five ways a buffer operation completes, of which only a WRITE with room writes a cell and only it
and CLEAR write `length`. -/
theorem bufferFamilyFrame : Obligations.BufferFamilyFrame := by
  unfold Obligations.BufferFamilyFrame
  intro i s t hp h
  obtain ⟨rfl, rfl⟩ | ⟨b, rfl, hroom, rfl⟩ | ⟨b, rfl, -, rfl⟩ | ⟨k, rfl, -, -, rfl⟩ | ⟨k, rfl, -, rfl⟩ :=
    exec_buf_eq_next hp h
  all_goals refine ⟨rfl, rfl, rfl, rfl, rfl, rfl, rfl, rfl, rfl, rfl, ?_⟩
  · exact ⟨fun ⟨_, hi⟩ => (nomatch hi), fun ⟨_, hi⟩ => (nomatch hi), fun _ _ => rfl⟩
  · exact ⟨fun ⟨_, hi⟩ => (nomatch hi), fun _ hfull => absurd hroom hfull,
      fun a ha => cell_of_store_other rfl (ha ⟨b, rfl⟩ hroom)⟩
  all_goals exact ⟨fun _ => rfl, fun _ _ => rfl, fun _ _ => rfl⟩

/-- READ changes the response only, which is the byte of a valid index or OutOfRange. -/
theorem exec_read_eq_next {k : Idx} {s t : State} (h : exec (.read k) s = .next t) :
    t = { s with rsp := some (if k < s.length then 0b00#2 ++ Ops.cell s k.toNat else 0x200) } := by
  obtain ⟨hi, -⟩ | ⟨b, hi, -⟩ | ⟨b, hi, -⟩ | ⟨_, hi, hk, -, rfl⟩ | ⟨_, hi, hk, rfl⟩ := exec_buf_eq_next rfl h
  case inr.inr.inr.inl =>
    cases hi
    rw [if_pos hk]
  case inr.inr.inr.inr =>
    cases hi
    rw [if_neg hk]
  all_goals cases hi

/-- Settles O18: CLEAR and the toggles write constants, and READ answers from storage and `length`, which it leaves. -/
theorem repeatedOperationsAreIdempotent : Obligations.RepeatedOperationsAreIdempotent := by
  unfold Obligations.RepeatedOperationsAreIdempotent
  rintro i s t u (rfl | ⟨k, rfl⟩ | rfl | rfl | rfl | rfl) ht hu
  case inr.inl =>
    obtain rfl := exec_read_eq_next ht
    obtain rfl := exec_read_eq_next hu
    rfl
  all_goals
    cases ht
    cases hu
    rfl

end Sys2Proof.Machine

/-! # The event handlers and their frame (41_state_machine.md, 60_exceptions.md R110)

INIT, a byte received with room, what a handler leaves behind, and the frame of the three events. -/

namespace Sys2Proof.Machine

/-- Settles O20: it is row T0. -/
theorem initStartsReceiving : Obligations.InitStartsReceiving := by
  unfold Obligations.InitStartsReceiving
  exact fun _ => exec_init_of_disabled

/-- Settles O21: INIT tests both enable bits before it does anything. -/
theorem initRunsOnlyOnce : Obligations.InitRunsOnlyOnce := by
  unfold Obligations.InitRunsOnlyOnce
  exact fun _ => exec_init_of_enabled

/-- Settles O22: it is row T1, and the byte is stored at `length`, which is below CAPACITY. -/
theorem rxcStoresByteWithRoom : Obligations.RxcStoresByteWithRoom := by
  unfold Obligations.RxcStoresByteWithRoom
  intro d s ha hrx hroom
  exact ⟨_, exec_rxc_of_room d ha hrx hroom, rfl, toNat_succ_of_lt hroom, cell_of_store_same rfl,
    fun _ hk => cell_of_store_other rfl hk⟩

/-- Settles O27: each event looks first whether somebody runs. -/
theorem handlersDoNotNest : Obligations.HandlersDoNotNest := by
  unfold Obligations.HandlersDoNotNest
  intro i s hp hrun
  cases i <;> simp only [Instr.port, reduceCtorEq] at hp
  case init => exact if_pos hrun
  case rxc d => exact if_pos hrun
  case txr => exact if_pos hrun

/-! ## Handlers return (R110) -/

theorem exec_init_isNext_iff {s : State} (ha : s.agent = .idle) :
    (∃ u, exec .init s = .next u) ↔ s.rxie = false ∧ s.txie = false := by
  refine ⟨fun ⟨u, hu⟩ => ?_, fun ⟨hrx, htx⟩ => ⟨_, exec_init_of_disabled ha hrx htx⟩⟩
  obtain ⟨-, ⟨-, hrx, htx, -⟩ | ⟨d, hi, -⟩ | ⟨d, hi, -⟩ | ⟨hi, -⟩ | ⟨hi, -⟩⟩ := exec_ev_eq_next rfl hu
  · exact ⟨hrx, htx⟩
  all_goals cases hi

theorem exec_rxc_isNext_iff {s : State} (d : Byte) (ha : s.agent = .idle) :
    (∃ u, exec (.rxc d) s = .next u) ↔ s.rxie = true := by
  refine ⟨fun ⟨u, hu⟩ => ?_, exec_rxc_completes d ha⟩
  by_contra hrx
  rw [exec_rxc_of_disabled d ha (by simpa using hrx)] at hu
  cases hu

theorem exec_txr_isNext_iff {s : State} (ha : s.agent = .idle) (hlen : s.length ≤ s.cfg.capacity) :
    (∃ u, exec .txr s = .next u) ↔ s.txie = true := by
  refine ⟨fun ⟨u, hu⟩ => ?_, fun htx => exec_txr_completes ha htx hlen⟩
  by_contra htx
  rw [exec_txr_of_disabled ha (by simpa using htx)] at hu
  cases hu

theorem succ_le_of_lt {n c : Idx} (h : n < c) : n + 1 ≤ c := by
  rw [BitVec.le_def, toNat_succ_of_lt h]
  exact BitVec.lt_def.mp h

theorem exec_ev_keeps_length_le {i : Instr} {s t : State} (hs : s.length ≤ s.cfg.capacity) (hp : i.port = .ev)
    (h : exec i s = .next t) : t.length ≤ t.cfg.capacity := by
  obtain ⟨-, ⟨-, -, -, rfl⟩ | ⟨d, -, -, hroom, rfl⟩ | ⟨d, -, -, -, rfl⟩ | ⟨-, -, -, -, rfl⟩ | ⟨-, -, -, rfl⟩⟩ :=
    exec_ev_eq_next hp h
  · exact zero_le_idx _
  · exact succ_le_of_lt hroom
  · exact hs
  · exact hs
  · exact zero_le_idx _

/-- Settles O28: after an event nobody runs, and then each event is delivered exactly as its enable bit says. -/
theorem handlersReturn : Obligations.HandlersReturn := by
  unfold Obligations.HandlersReturn
  intro i s t hp h
  obtain ⟨ha, -⟩ := exec_ev_eq_next hp h
  obtain ⟨-, -, hagent, hrsp⟩ := exec_ev_frame hp h
  have hidle : t.agent = .idle := hagent.trans ha
  exact ⟨hidle, hrsp, fun hs => exec_ev_lockstep (.inr hs) hp h, fun d => exec_rxc_isNext_iff d hidle,
    fun hlen => exec_txr_isNext_iff hidle (exec_ev_keeps_length_le hlen hp h), exec_init_isNext_iff hidle⟩

/-! ## What the events leave unchanged, and what they emit -/

/-- Settles O29: the five ways an event completes, each with the fields that are its own. -/
theorem eventFamilyFrame : Obligations.EventFamilyFrame := by
  unfold Obligations.EventFamilyFrame
  intro i s t hp h
  obtain ⟨-, ⟨rfl, -, -, rfl⟩ | ⟨d, rfl, -, hroom, rfl⟩ | ⟨d, rfl, -, hfull, rfl⟩ | ⟨rfl, -, hlt, -, rfl⟩ |
    ⟨rfl, -, hge, rfl⟩⟩ := exec_ev_eq_next hp h
  all_goals refine ⟨rfl, rfl, rfl, ?_⟩
  · exact ⟨.inl rfl, .inl rfl, .inl rfl, .inr (.inr (.inr rfl)), .inr (.inr (.inr ⟨rfl, rfl⟩)), fun _ _ => rfl⟩
  · exact ⟨.inl rfl, .inl rfl, .inl rfl, .inr (.inl ⟨⟨d, rfl⟩, hroom⟩), .inl ⟨rfl, rfl, rfl⟩,
      fun a ha => cell_of_store_other rfl (ha ⟨d, rfl⟩ hroom)⟩
  · exact ⟨.inl rfl, .inr ⟨⟨d, rfl⟩, hfull⟩, .inr (.inl ⟨⟨d, rfl⟩, hfull⟩), .inl rfl,
      .inr (.inl ⟨⟨d, rfl⟩, hfull⟩), fun _ _ => rfl⟩
  · exact ⟨.inr ⟨rfl, hlt⟩, .inl rfl, .inr (.inr ⟨rfl, hlt⟩), .inl rfl, .inl ⟨rfl, rfl, rfl⟩, fun _ _ => rfl⟩
  · exact ⟨.inl rfl, .inl rfl, .inl rfl, .inr (.inr (.inl ⟨rfl, hge⟩)), .inr (.inr (.inl ⟨rfl, hge⟩)),
      fun _ _ => rfl⟩

/-- Settles O31: the commands of each of the five ways an event completes. -/
theorem handlerCommandOrder : Obligations.HandlerCommandOrder := by
  unfold Obligations.HandlerCommandOrder
  intro i s t hp h
  obtain ⟨-, ⟨rfl, -, -, rfl⟩ | ⟨d, rfl, -, hroom, rfl⟩ | ⟨d, rfl, -, hfull, rfl⟩ | ⟨rfl, -, hlt, -, rfl⟩ |
    ⟨rfl, -, hge, rfl⟩⟩ := exec_ev_eq_next hp h
  · simp
  · simp [hroom]
  · simp [hfull]
  · simp [hlt]
  · simp [hge]

/-- Settles O32: no other port writes the mode, and of the events only the two transitions and INIT. -/
theorem modeChangesOnlyAtTransitions : Obligations.ModeChangesOnlyAtTransitions := by
  unfold Obligations.ModeChangesOnlyAtTransitions
  intro i s t h hne
  have hp : i.port = .ev := by
    by_contra hp
    exact hne (exec_mode_of_port_ne_ev hp h)
  obtain ⟨-, ⟨rfl, -, -, rfl⟩ | ⟨d, -, -, -, rfl⟩ | ⟨d, rfl, -, hfull, rfl⟩ | ⟨-, -, -, -, rfl⟩ |
    ⟨rfl, -, hge, rfl⟩⟩ := exec_ev_eq_next hp h
  · exact .inr (.inr ⟨rfl, rfl⟩)
  · exact absurd rfl hne
  · exact .inl ⟨⟨d, rfl⟩, hfull, rfl⟩
  · exact absurd rfl hne
  · exact .inr (.inl ⟨rfl, hge, rfl⟩)

end Sys2Proof.Machine

/-! # The peripheral commands and what is emitted (42_peripheral_primitives.md, 30_encoding.md R50, R54)

Where HWRD and HWWR are refused, the frame of the six commands, and for every operation its response, its commands and
the words that leave on PER. -/

namespace Sys2Proof.Machine

/-! ## HWRD and HWWR (R90, R91) -/

theorem exec_hwrd_of_rxh {s : State} {d : Byte} (h : s.agent = .rxh d false) :
    exec .hwrd s = .next { s with cmdOut := s.cmdOut ++ [.hwrd], agent := .rxh d true, rsp := some (0b00#2 ++ d) } := by
  simp only [exec, execHwrd, Ops.hwrd_of_rxh h, andThen_next]
  rfl

theorem Ops.hwrd_of_not_rxh {s : State} (h : ∀ d, s.agent ≠ .rxh d false) : Ops.hwrd s = .refused .noReceivedByte := by
  unfold Ops.hwrd
  split
  case h_1 d ha => exact absurd ha (h d)
  all_goals rfl

/-- Settles O34: HWRD looks at who runs alone. -/
theorem hwrdTakesTheEventByteOnce : Obligations.HwrdTakesTheEventByteOnce := by
  unfold Obligations.HwrdTakesTheEventByteOnce
  refine fun s => ⟨fun d => exec_hwrd_of_rxh, fun h => ?_⟩
  rw [exec, execHwrd, Ops.hwrd_of_not_rxh h, andThen_refused]

theorem exec_hwwr_of_txh {s : State} (b : Byte) (h : s.agent = .txh false) :
    exec (.hwwr b) s = .next { s with cmdOut := s.cmdOut ++ [.hwwr b], txOut := s.txOut ++ [b], agent := .txh true,
                                      rsp := none } := by
  simp only [exec, execHwwr, Ops.hwwr_of_txh b h, andThen_next]
  rfl

theorem Ops.hwwr_of_not_txh {s : State} (b : Byte) (h : s.agent ≠ .txh false) :
    Ops.hwwr b s = .refused .noTransmitReady := by
  unfold Ops.hwwr
  split
  case h_1 ha => exact absurd ha h
  all_goals rfl

/-- Settles O35: HWWR looks at who runs alone. -/
theorem hwwrHandsOverOneByte : Obligations.HwwrHandsOverOneByte := by
  unfold Obligations.HwwrHandsOverOneByte
  refine fun b s => ⟨exec_hwwr_of_txh b, fun h => ?_⟩
  rw [exec, execHwwr, Ops.hwwr_of_not_txh b h, andThen_refused]

/-- Settles O36: the meaning of each toggle is that one update. -/
theorem togglesSetTheirEnableBit : Obligations.TogglesSetTheirEnableBit := by
  unfold Obligations.TogglesSetTheirEnableBit
  exact fun _ => ⟨rfl, rfl, rfl, rfl⟩

/-- Settles O37: the six ways a command completes, each with the field that is its own. -/
theorem peripheralFamilyFrame : Obligations.PeripheralFamilyFrame := by
  unfold Obligations.PeripheralFamilyFrame
  intro i s t hp h
  obtain ⟨rfl, d, -, rfl⟩ | ⟨b, rfl, -, rfl⟩ | ⟨rfl, rfl⟩ | ⟨rfl, rfl⟩ | ⟨rfl, rfl⟩ | ⟨rfl, rfl⟩ :=
    exec_per_eq_next hp h
  all_goals refine ⟨rfl, rfl, rfl, rfl, rfl, rfl, rfl, ?_⟩
  · exact ⟨.inl rfl, .inl rfl, .inl rfl, .inr (.inl rfl), _, rfl⟩
  · exact ⟨.inl rfl, .inl rfl, .inr ⟨b, rfl⟩, .inr (.inr ⟨b, rfl⟩), _, rfl⟩
  · exact ⟨.inr (.inl rfl), .inl rfl, .inl rfl, .inl rfl, _, rfl⟩
  · exact ⟨.inr (.inr rfl), .inl rfl, .inl rfl, .inl rfl, _, rfl⟩
  · exact ⟨.inl rfl, .inr (.inl rfl), .inl rfl, .inl rfl, _, rfl⟩
  · exact ⟨.inl rfl, .inr (.inr rfl), .inl rfl, .inl rfl, _, rfl⟩

/-! ## Responses (30_encoding.md R55, R56) -/

theorem State.rspLegal_iff {s : State} : s.rspLegal = true ↔ ∀ r, s.rsp = some r → r.extractLsb' 8 2 ≠ 0b11 := by
  cases hr : s.rsp <;> simp [State.rspLegal, hr]

/-- A byte answered with Success does not carry the reserved status code. -/
theorem success_code_ne_reserved (b : Byte) : (0b00#2 ++ b).extractLsb' 8 2 ≠ 0b11 := by
  revert b
  decide

/-- A peripheral command answers HWRD's byte or nothing. -/
theorem exec_per_rspLegal {i : Instr} {s t : State} (hp : i.port = .per) (h : exec i s = .next t) :
    t.rspLegal = true := by
  obtain ⟨-, d, -, rfl⟩ | ⟨b, -, -, rfl⟩ | ⟨-, rfl⟩ | ⟨-, rfl⟩ | ⟨-, rfl⟩ | ⟨-, rfl⟩ := exec_per_eq_next hp h
  case inl => simpa [State.rspLegal] using success_code_ne_reserved d
  all_goals rfl

/-- No operation answers the reserved status code. -/
theorem exec_rspLegal {i : Instr} {s t : State} (h : exec i s = .next t) : t.rspLegal = true := by
  cases hp : i.port with
  | ev =>
    obtain ⟨-, -, -, hrsp⟩ := exec_ev_frame hp h
    simp [State.rspLegal, hrsp]
  | buf => exact exec_buf_rspLegal hp h
  | per => exact exec_per_rspLegal hp h

/-- Settles O19: the responses of the ways each port's operations complete. -/
theorem responseOfEachOperation : Obligations.ResponseOfEachOperation := by
  unfold Obligations.ResponseOfEachOperation
  refine fun i s t h => ⟨?_, State.rspLegal_iff.mp (exec_rspLegal h)⟩
  cases hp : i.port with
  | ev =>
    obtain ⟨-, ⟨rfl, -, -, rfl⟩ | ⟨d, rfl, -, -, rfl⟩ | ⟨d, rfl, -, -, rfl⟩ | ⟨rfl, -, -, -, rfl⟩ | ⟨rfl, -, -, rfl⟩⟩ :=
      exec_ev_eq_next hp h
    all_goals rfl
  | buf =>
    obtain ⟨rfl, rfl⟩ | ⟨b, rfl, hroom, rfl⟩ | ⟨b, rfl, hfull, rfl⟩ | ⟨k, rfl, hk, -, rfl⟩ | ⟨k, rfl, hk, rfl⟩ :=
      exec_buf_eq_next hp h
    · rfl
    · simp [hroom]
    · simp [hfull]
    · simp [hk]
    · simp [hk]
  | per =>
    obtain ⟨rfl, d, ha, rfl⟩ | ⟨b, rfl, -, rfl⟩ | ⟨rfl, rfl⟩ | ⟨rfl, rfl⟩ | ⟨rfl, rfl⟩ | ⟨rfl, rfl⟩ :=
      exec_per_eq_next hp h
    case inl => simp [ha]
    all_goals rfl

/-! ## The commands emitted -/

/-- The commands an operation that answers a next state has emitted account for the enable bits and the bytes sent; at
most one byte is dropped. -/
theorem exec_effects {i : Instr} {s t : State} (h : exec i s = .next t) :
    ∃ (new : List Command) (drops : List Byte),
      t.cmdOut = s.cmdOut ++ new ∧ t.rxie = new.foldl Command.rxieAfter s.rxie ∧
      t.txie = new.foldl Command.txieAfter s.txie ∧ t.txOut = s.txOut ++ new.filterMap Command.sent ∧
      t.dropLog = s.dropLog ++ drops ∧ drops.length ≤ 1 := by
  have hnil {α : Type} (l : List α) : l = l ++ [] := (List.append_nil l).symm
  cases hp : i.port with
  | ev =>
    obtain ⟨-, ⟨-, -, -, rfl⟩ | ⟨d, -, -, -, rfl⟩ | ⟨d, -, -, -, rfl⟩ | ⟨-, -, -, -, rfl⟩ | ⟨-, -, -, rfl⟩⟩ :=
      exec_ev_eq_next hp h
    · exact ⟨[.enrx], [], rfl, rfl, rfl, hnil _, hnil _, Nat.zero_le _⟩
    · exact ⟨[.hwrd], [], rfl, rfl, rfl, hnil _, hnil _, Nat.zero_le _⟩
    · exact ⟨[.hwrd, .disrx, .entx], [d], rfl, rfl, rfl, hnil _, rfl, Nat.le_refl _⟩
    · exact ⟨[.hwwr (Ops.cell s s.cursor.toNat)], [], rfl, rfl, rfl, rfl, hnil _, Nat.zero_le _⟩
    · exact ⟨[.distx, .enrx], [], rfl, rfl, rfl, hnil _, hnil _, Nat.zero_le _⟩
  | buf =>
    rw [exec_buf_frame hp h]
    exact ⟨[], [], hnil _, rfl, rfl, hnil _, hnil _, Nat.zero_le _⟩
  | per =>
    obtain ⟨-, d, -, rfl⟩ | ⟨b, -, -, rfl⟩ | ⟨-, rfl⟩ | ⟨-, rfl⟩ | ⟨-, rfl⟩ | ⟨-, rfl⟩ := exec_per_eq_next hp h
    · exact ⟨[.hwrd], [], rfl, rfl, rfl, hnil _, hnil _, Nat.zero_le _⟩
    · exact ⟨[.hwwr b], [], rfl, rfl, rfl, rfl, hnil _, Nat.zero_le _⟩
    all_goals exact ⟨[_], [], rfl, rfl, rfl, hnil _, hnil _, Nat.zero_le _⟩

/-- Settles O38: the commands of each way an operation completes. -/
theorem effectsFollowEmittedCommands : Obligations.EffectsFollowEmittedCommands := by
  unfold Obligations.EffectsFollowEmittedCommands
  exact fun _ _ _ => exec_effects

theorem Command.instr_port (c : Command) : c.instr.port = .per := by
  cases c <;> rfl

/-- Settles O52: a command's word is the word of its operation, and PER passes the words of the commands emitted. -/
theorem emittedCommandsAreOperationWords : Obligations.EmittedCommandsAreOperationWords := by
  unfold Obligations.EmittedCommandsAreOperationWords
  refine ⟨fun c => ⟨rfl, c.instr_port, decode_encode c.instr⟩, fun i s t h => ?_⟩
  cases hp : i.port with
  | ev =>
    obtain ⟨-, ⟨rfl, -, -, rfl⟩ | ⟨d, rfl, -, hroom, rfl⟩ | ⟨d, rfl, -, hfull, rfl⟩ | ⟨rfl, -, hlt, -, rfl⟩ |
      ⟨rfl, -, hge, rfl⟩⟩ := exec_ev_eq_next hp h
    · exact State.perOut_append (cs := [.enrx]) rfl
    · rw [State.perOut_append (s := s) (cs := [.hwrd]) rfl, if_pos hroom]
      rfl
    · rw [State.perOut_append (s := s) (cs := [.hwrd, .disrx, .entx]) rfl, if_neg hfull]
      rfl
    · rw [State.perOut_append (s := s) (cs := [.hwwr (Ops.cell s s.cursor.toNat)]) rfl, if_pos hlt]
      rfl
    · rw [State.perOut_append (s := s) (cs := [.distx, .enrx]) rfl, if_neg hge]
      rfl
  | buf =>
    obtain ⟨rfl, rfl⟩ | ⟨b, rfl, -, rfl⟩ | ⟨b, rfl, -, rfl⟩ | ⟨k, rfl, -, -, rfl⟩ | ⟨k, rfl, -, rfl⟩ :=
      exec_buf_eq_next hp h
    all_goals exact (List.append_nil _).symm
  | per =>
    obtain ⟨rfl, d, -, rfl⟩ | ⟨b, rfl, -, rfl⟩ | ⟨rfl, rfl⟩ | ⟨rfl, rfl⟩ | ⟨rfl, rfl⟩ | ⟨rfl, rfl⟩ :=
      exec_per_eq_next hp h
    · exact State.perOut_append (cs := [.hwrd]) rfl
    · exact State.perOut_append (cs := [.hwwr b]) rfl
    · exact State.perOut_append (cs := [.enrx]) rfl
    · exact State.perOut_append (cs := [.disrx]) rfl
    · exact State.perOut_append (cs := [.entx]) rfl
    · exact State.perOut_append (cs := [.distx]) rfl

end Sys2Proof.Machine

/-! # Reset and the invariants of a step (10_state.md R26, R27, 70_reset_and_hazards.md)

What reset gives, what every step keeps, and what no step does from a state of the invariant. -/

namespace Sys2Proof.Machine

/-! ## Reset -/

/-- Settles O39: `State.reset` is those values. -/
theorem resetLeavesTheSpecsValues : Obligations.ResetLeavesTheSpecsValues := by
  unfold Obligations.ResetLeavesTheSpecsValues
  exact ⟨rfl, rfl, rfl, rfl, rfl, rfl, rfl, rfl⟩

theorem State.reset_isReset : State.reset.IsReset := ⟨rfl, rfl, rfl, rfl, rfl, rfl, rfl, rfl, rfl⟩

theorem State.reset_storageFits : State.reset.StorageFits := ⟨Memory.reset_wf, fun _ hc => nomatch hc⟩

/-- Settles O40: they are parts of `State.RunInv`, and `State.reset` is a reset state with no cell written. -/
theorem resetMeetsTheInvariants : Obligations.ResetMeetsTheInvariants := by
  unfold Obligations.ResetMeetsTheInvariants
  refine ⟨fun s hs hc hf => ?_, State.reset_isReset.inv rfl State.reset_storageFits⟩
  obtain ⟨hinv, hexplained, hdrain, -⟩ := hs.runInv hc hf
  exact ⟨hinv, hdrain, hexplained⟩

/-- Settles O49: with both interrupts disabled the only event that completes is INIT. -/
theorem onlyInitStepsAfterReset : Obligations.OnlyInitStepsAfterReset := by
  unfold Obligations.OnlyInitStepsAfterReset
  intro s w rest hs hl hc hin
  have htakes : s.TakesEvents := ⟨hc, hl, hs.agent⟩
  constructor
  · rintro ⟨u, hu⟩
    obtain ⟨i, hp, rfl, hex⟩ := step_takesEvents_eq_next htakes hin hu
    obtain ⟨-, ⟨rfl, -⟩ | ⟨d, -, hrx, -⟩ | ⟨d, -, hrx, -⟩ | ⟨-, htx, -⟩ | ⟨-, htx, -⟩⟩ := exec_ev_eq_next hp hex
    · rfl
    · cases hs.rxie.symm.trans hrx
    · cases hs.rxie.symm.trans hrx
    · cases hs.txie.symm.trans htx
    · cases hs.txie.symm.trans htx
  · rintro rfl
    rw [step_present htakes rfl hin]
    exact (exec_init_isNext_iff (s := { s with input := rest }) hs.agent).mpr ⟨hs.rxie, hs.txie⟩

/-! ## What every step keeps -/

/-- Settles O41: every event at level M and every buffer operation at level B keeps each part of the invariant. -/
theorem stepKeepsTheInvariant : Obligations.StepKeepsTheInvariant := by
  unfold Obligations.StepKeepsTheInvariant
  exact fun _ _ => step_keeps_inv

/-- Settles O42: the events keep the drain in order, and at level B, where the buffer operations run, nothing drains. -/
theorem stepKeepsDrainOrder : Obligations.StepKeepsDrainOrder := by
  unfold Obligations.StepKeepsDrainOrder
  intro s t hs he hd h
  obtain rfl | ⟨i, rest, hex, ⟨hp, -⟩ | ⟨hp, hl⟩⟩ := step_idle_eq_next hs.idle h
  · exact hd
  · exact exec_ev_keeps_drainOrdered (hs.withInput rest) he hd hp hex
  · obtain ⟨hmode, -⟩ := (exec_buf_uninitialized_iff hp hex).mpr (hs.levelB hl)
    exact fun hm => Mode.noConfusion (hmode.symm.trans hm)

/-- Settles O43: the commands each operation emits account for the new enable bits and the bytes sent. -/
theorem stepKeepsTracesExplained : Obligations.StepKeepsTracesExplained := by
  unfold Obligations.StepKeepsTracesExplained
  intro s t hs h
  obtain ⟨-, rfl⟩ | ⟨i, -, -, hex⟩ := step_eq_next_presented h
  · exact hs
  · obtain ⟨new, -, hcmd, hrx, htx, hout, -, -⟩ := exec_effects hex
    exact State.Explained.append hs hcmd hrx htx hout

/-- Settles O51: every event emits a command and ends in the lockstep, and a buffer operation touches neither. -/
theorem stepKeepsLockstepOnceStarted : Obligations.StepKeepsLockstepOnceStarted := by
  unfold Obligations.StepKeepsLockstepOnceStarted
  refine ⟨fun s hs => ⟨fun _ => ⟨hs.mode, hs.rxie, hs.txie⟩, fun hne => absurd hs.cmdOut hne⟩, ?_⟩
  intro s t hs hstart h
  obtain rfl | ⟨i, rest, hex, ⟨hp, -⟩ | ⟨hp, -⟩⟩ := step_idle_eq_next hs.idle h
  · exact hstart
  · exact exec_ev_lockstepOnceStarted (s := { s with input := rest }) hs.lockstep hp hex
  · exact (exec_buf_lockstepOnceStarted_iff hp hex).mpr hstart

/-! ## What no step does -/

/-- A step that faults runs an operation that faults, of an open port. -/
theorem step_eq_fault {s : State} {f : Fault} (h : step s = .fault f) :
    ∃ i rest, portOpen i.port s = true ∧ exec i { s with input := rest } = .fault f := by
  cases hin : s.input with
  | nil =>
    rw [step_of_nil hin] at h
    cases h
  | cons w rest =>
    cases hacc : accept w s with
    | error why =>
      rw [step_of_error hin hacc] at h
      cases h
    | ok i =>
      rw [step_of_ok hin hacc] at h
      obtain ⟨-, -, hport, hopen⟩ := accept_eq_ok hacc
      exact ⟨i, rest, hport ▸ hopen, h⟩

/-- Settles O46: a buffer operation completes, and an event completes or is refused, where `length` is at most
CAPACITY. -/
theorem noReachableFault : Obligations.NoReachableFault := by
  unfold Obligations.NoReachableFault
  intro s f hs h
  obtain ⟨i, rest, hopen, hex⟩ := step_eq_fault h
  obtain ⟨hp, -⟩ | ⟨hp, -⟩ := portOpen_idle hs.idle hopen
  · obtain ⟨t, -, hnext⟩ | ⟨-, why, hrefused⟩ := exec_eq_tableStep (s := { s with input := rest }) hp hs.idle hs.length
    · cases hex.symm.trans hnext
    · cases hex.symm.trans hrefused
  · obtain ⟨t, hnext⟩ := exec_buf_completes (s := { s with input := rest }) hp hs.length
    cases hex.symm.trans hnext

/-- Settles O47: of the ways an event or a buffer operation completes, those that add one do so below a bound. -/
theorem countersNeverWrap : Obligations.CountersNeverWrap := by
  unfold Obligations.CountersNeverWrap
  intro s t hs h
  obtain ⟨-, rfl⟩ | ⟨i, hi, hopen, hex⟩ := step_eq_next_presented h
  · exact ⟨.inl rfl, .inl rfl⟩
  rw [hi]
  obtain ⟨hp, -⟩ | ⟨hp, -⟩ := portOpen_idle hs.idle hopen
  · obtain ⟨-, ⟨rfl, -, -, rfl⟩ | ⟨d, rfl, -, hroom, rfl⟩ | ⟨d, rfl, -, hfull, rfl⟩ | ⟨rfl, -, hlt, -, rfl⟩ |
      ⟨rfl, -, hge, rfl⟩⟩ := exec_ev_eq_next hp hex
    · exact ⟨.inr (.inr ⟨.inr (.inl rfl), rfl⟩), .inl rfl⟩
    · exact ⟨.inr (.inl ⟨⟨d, .inr rfl⟩, hroom, toNat_succ_of_lt hroom⟩), .inl rfl⟩
    · exact ⟨.inl rfl, .inr (.inr ⟨⟨d, rfl⟩, hfull, rfl⟩)⟩
    · exact ⟨.inl rfl, .inr (.inl ⟨rfl, hlt, toNat_succ_of_lt hlt⟩)⟩
    · exact ⟨.inr (.inr ⟨.inr (.inr ⟨rfl, hge⟩), rfl⟩), .inl rfl⟩
  · obtain ⟨rfl, rfl⟩ | ⟨b, rfl, hroom, rfl⟩ | ⟨b, -, -, rfl⟩ | ⟨k, -, -, -, rfl⟩ | ⟨k, -, -, rfl⟩ :=
      exec_buf_eq_next hp hex
    · exact ⟨.inr (.inr ⟨.inl rfl, rfl⟩), .inl rfl⟩
    · exact ⟨.inr (.inl ⟨⟨b, .inl rfl⟩, hroom, toNat_succ_of_lt hroom⟩), .inl rfl⟩
    all_goals exact ⟨.inl rfl, .inl rfl⟩

end Sys2Proof.Machine

/-! # Stale cells and the stale cursor (10_state.md R12, R20, R21)

The cells at or above `length`, and the cursor outside Transmitting, do not show in the outcome of a step: two states
that differ only there step to two states that differ only there, or are refused for the same reason. -/

namespace Sys2Proof.Machine

/-- One outcome is matched by another: a next state by one that looks the same, and a refusal by the same refusal. -/
def Matched (o p : Res State) : Prop :=
  (∀ u, o = .next u → ∃ v, p = .next v ∧ u.SameVisible v) ∧ ∀ why, o = .refused why → p = .refused why

theorem Matched.next {o p : Res State} {u v : State} (ho : o = .next u) (hp : p = .next v) (h : u.SameVisible v) :
    Matched o p := by
  subst ho hp
  refine ⟨fun _ hu => ?_, fun _ hwhy => nomatch hwhy⟩
  cases hu
  exact ⟨v, rfl, h⟩

theorem Matched.refused {o p : Res State} {why : Refusal} (ho : o = .refused why) (hp : p = .refused why) :
    Matched o p := by
  subst ho hp
  exact ⟨fun _ hu => (nomatch hu), fun _ hwhy => hwhy⟩

/-- `s` with its stale parts replaced. -/
abbrev State.withStale (s : State) (m : Memory) (c : Idx) : State := { s with storage := m, cursor := c }

/-- Cells that agree below an index agree below the next one after the same byte is stored at that index of both. -/
theorem cells_agree_after_store {s t u v : State} {n limit : Idx} {b : Byte} (hn : n < limit)
    (h : ∀ k < n.toNat, Ops.cell t k = Ops.cell s k) (hu : u.storage = s.storage.store n.toNat b)
    (hv : v.storage = t.storage.store n.toNat b) : ∀ k < (n + 1).toNat, Ops.cell v k = Ops.cell u k := by
  intro k hk
  rw [toNat_succ_of_lt hn] at hk
  by_cases hkn : k = n.toNat
  · subst hkn
    rw [cell_of_store_same hv, cell_of_store_same hu]
  · rw [cell_of_store_other hv hkn, cell_of_store_other hu hkn]
    exact h k (by omega)

section
variable {s : State} {m : Memory} {c : Idx}

/-- Only a delivered TXR looks at the cursor or at a cell, and it is delivered while Transmitting. -/
theorem exec_ev_matched {i : Instr} (hs : s.Inv) (hv : s.SameVisible (s.withStale m c)) (hp : i.port = .ev) :
    Matched (exec i s) (exec i (s.withStale m c)) := by
  obtain ⟨-, hcells, hcursor⟩ := hv
  have ha := hs.idle
  cases i <;> simp only [Instr.port, reduceCtorEq] at hp
  case init =>
    by_cases h : s.rxie = false ∧ s.txie = false
    · obtain ⟨hrx, htx⟩ := h
      exact .next (exec_init_of_disabled ha hrx htx) (exec_init_of_disabled (s := s.withStale m c) ha hrx htx)
        ⟨rfl, fun _ hk => absurd hk (Nat.not_lt_zero _), fun hm => nomatch hm⟩
    · have h' : s.rxie = true ∨ s.txie = true := by simpa [or_iff_not_imp_left] using h
      exact .refused (exec_init_of_enabled ha h') (exec_init_of_enabled (s := s.withStale m c) ha h')
  case rxc d =>
    cases hrx : s.rxie with
    | false => exact .refused (exec_rxc_of_disabled d ha hrx) (exec_rxc_of_disabled (s := s.withStale m c) d ha hrx)
    | true =>
      by_cases hroom : s.length < s.cfg.capacity
      · exact .next (exec_rxc_of_room d ha hrx hroom) (exec_rxc_of_room (s := s.withStale m c) d ha hrx hroom)
          ⟨rfl, cells_agree_after_store hroom hcells rfl rfl, hcursor⟩
      · exact .next (exec_rxc_of_full d ha hrx hroom) (exec_rxc_of_full (s := s.withStale m c) d ha hrx hroom)
          ⟨rfl, hcells, fun _ => rfl⟩
  case txr =>
    cases htx : s.txie with
    | false => exact .refused (exec_txr_of_disabled ha htx) (exec_txr_of_disabled (s := s.withStale m c) ha htx)
    | true =>
      obtain ⟨hm, -⟩ := transmittingLine_of_txie hs.lockstep htx
      obtain rfl : c = s.cursor := hcursor hm
      by_cases hlt : s.cursor < s.length
      · have hc := lt_capacity_of_lt_length hlt hs.length
        have hcell : Ops.cell (s.withStale m s.cursor) s.cursor.toNat = Ops.cell s s.cursor.toNat :=
          hcells _ (BitVec.lt_def.mp hlt)
        refine .next (exec_txr_of_lt ha htx hlt hc) (exec_txr_of_lt (s := s.withStale m s.cursor) ha htx hlt hc)
          ⟨?_, hcells, fun _ => rfl⟩
        rw [hcell]
      · exact .next (exec_txr_of_not_lt ha htx hlt) (exec_txr_of_not_lt (s := s.withStale m s.cursor) ha htx hlt)
          ⟨rfl, fun _ hk => absurd hk (Nat.not_lt_zero _), fun hm => nomatch hm⟩

/-- A buffer operation looks at `length` and the cells below it. -/
theorem exec_buf_matched {i : Instr} (hs : s.length ≤ s.cfg.capacity) (hv : s.SameVisible (s.withStale m c))
    (hp : i.port = .buf) : Matched (exec i s) (exec i (s.withStale m c)) := by
  obtain ⟨-, hcells, hcursor⟩ := hv
  cases i <;> simp only [Instr.port, reduceCtorEq] at hp
  case clear =>
    exact .next (exec_clear s) (exec_clear (s.withStale m c)) ⟨rfl, fun _ hk => absurd hk (Nat.not_lt_zero _), hcursor⟩
  case write b =>
    by_cases hroom : s.length < s.cfg.capacity
    · exact .next (exec_write_of_room b hroom) (exec_write_of_room (s := s.withStale m c) b hroom)
        ⟨rfl, cells_agree_after_store hroom hcells rfl rfl, hcursor⟩
    · exact .next (exec_write_of_full b hroom) (exec_write_of_full (s := s.withStale m c) b hroom)
        ⟨rfl, hcells, hcursor⟩
  case read k =>
    by_cases hk : k < s.length
    · have hc := lt_capacity_of_lt_length hk hs
      have hcell : Ops.cell (s.withStale m c) k.toNat = Ops.cell s k.toNat := hcells _ (BitVec.lt_def.mp hk)
      refine .next (exec_read_in_range hk hc) (exec_read_in_range (s := s.withStale m c) hk hc) ⟨?_, hcells, hcursor⟩
      rw [hcell]
    · exact .next (exec_read_out_of_range hk) (exec_read_out_of_range (s := s.withStale m c) hk)
        ⟨rfl, hcells, hcursor⟩

end

theorem State.SameVisible.withInput {s t : State} (h : s.SameVisible t) (rest : List Transaction) :
    { s with input := rest }.SameVisible { t with input := rest } := by
  obtain ⟨hrest, hcells, hcursor⟩ := h
  exact ⟨by rw [hrest], hcells, hcursor⟩

/-- Acceptance looks at the configuration and at who runs, and the operation accepted does not see what is stale. -/
theorem step_matched {s t : State} (hs : s.Inv) (hv : s.SameVisible t) : Matched (step s) (step t) := by
  obtain ⟨m, c, rfl⟩ : ∃ m c, t = s.withStale m c := ⟨_, _, hv.rest⟩
  cases hin : s.input with
  | nil => exact .next (step_of_nil hin) (step_of_nil (s := s.withStale m c) hin) hv
  | cons w rest =>
    have haccept : accept w (s.withStale m c) = accept w s := accept_congr w rfl rfl
    cases hacc : accept w s with
    | error why =>
      exact .refused (step_of_error hin hacc) (step_of_error (s := s.withStale m c) hin (haccept.trans hacc))
    | ok i =>
      rw [step_of_ok hin hacc, step_of_ok (s := s.withStale m c) hin (haccept.trans hacc)]
      obtain ⟨-, -, hport, hopen⟩ := accept_eq_ok hacc
      obtain ⟨hp, -⟩ | ⟨hp, -⟩ := portOpen_idle hs.idle hopen
      · exact exec_ev_matched (hs.withInput rest) (hv.withInput rest) (hport.trans hp)
      · exact exec_buf_matched (s := { s with input := rest }) hs.length (hv.withInput rest) (hport.trans hp)

/-- Settles O48: the outcome of a step from the first state is matched by that from the second. -/
theorem staleStateIsNeverSeen : Obligations.StaleStateIsNeverSeen := by
  unfold Obligations.StaleStateIsNeverSeen
  exact fun _ _ => step_matched

end Sys2Proof.Machine
